-- ==== Sys2Proof/Word.lean ====
section
/-! DEFINITION. The word types of the engine (00_scope.md section 7.1): every value is unsigned. -/

namespace Sys2Proof

/-- A byte, `u8` (00_scope.md section 7.1). -/
abbrev Byte := BitVec 8

/-- The 15-bit length and count registers `dec.rem` and `dec.n` (10_state.md R13, R15). -/
abbrev U15 := BitVec 15

/-- A 16-bit record field, `u16` (20_memory.md R35). -/
abbrev U16 := BitVec 16

/-- A token of the type OPAQUE: only equality of tokens is used (10_state.md R22; log entry 12, DESIGN CHOICE). -/
abbrev Token := Nat

end Sys2Proof
end

