-- ==== Sys2Proof/Config.lean ====
section
/-! DEFINITION. The configuration record of 00_scope.md section 6, its constraint R4, the test configuration T0, and the
machine's own configuration: its open parameters are an opaque constant, so that nothing can be proved of their values beyond
rule R4. The environment's draws stand here too, as opaque functions of a counter. -/

namespace Sys2Proof

/-- The byte order of the 16-bit payload fields (20_memory.md R35). -/
inductive ByteOrder where
  | le
  | be
deriving DecidableEq, Repr, Inhabited

/-- The configuration record (00_scope.md section 6). It is no part of the state (10_state.md R10) and constant from reset on
(20_memory.md R43). -/
structure Config where
  cmdPing : Byte
  cmdGetVersion : Byte
  cmdGetConstants : Byte
  cmdStartSampling : Byte
  cmdSetTrigger : Byte
  cmdSetHoldoff : Byte
  cmdSetVref : Byte
  cmdSetPrescaler : Byte
  cmdGetParameters : Byte
  cmdSetSamples : Byte
  cmdSetAutotrig : Byte
  cmdSetFlags : Byte
  cmdSetChannels : Byte
  cmdWriteScratchpad : Byte
  cmdReadScratchpad : Byte
  cmdSetPwm1 : Byte
  cmdGetPwm1 : Byte
  cmdVersionReply : Byte
  cmdBufferSeg : Byte
  cmdParametersReply : Byte
  cmdConstantsReply : Byte
  cmdScratchpadReply : Byte
  cmdPwm1Reply : Byte
  cmdPong : Byte
  cmdError : Byte
  /-- `MULTIBYTE_ORDER` (20_memory.md R35). -/
  order : ByteOrder
  /-- `FLAG_INVERT_MASK` (10_state.md R21). -/
  flagInvertMask : Byte
  /-- `AUTOTRIG_ARM` (43_flow_controller.md R116). -/
  autotrigArm : U16
  /-- `AUTOTRIG_DISARM` (43_flow_controller.md R116). -/
  autotrigDisarm : U16
  /-- `DecodeConstants`: uninterpreted (42_command_dispatcher.md R94; log entry 13 on the widths of the triple). -/
  decodeConstants : List Byte → Option (Nat × Nat × Nat)
deriving Inhabited

namespace Config

/-- `MAX_TOTAL_LEN` (30_encoding.md R48). -/
def maxTotalLen : Nat := 32767

/-- `MAX_PAYLOAD` (30_encoding.md R49). -/
def maxPayload : Nat := 32766

/-- `BUF_CAP` (10_state.md R15). -/
def bufCap : Nat := 32766

/-- The eight device-to-host identifiers (30_encoding.md R55). -/
def deviceIds (c : Config) : List Byte :=
  [c.cmdVersionReply, c.cmdBufferSeg, c.cmdParametersReply, c.cmdConstantsReply, c.cmdScratchpadReply, c.cmdPwm1Reply,
    c.cmdPong, c.cmdError]

/-- Rule R4 of 00_scope.md: (a) the device-to-host identifiers pairwise distinct, (b) one bit in the mask, (c) the arming
threshold below the disarming one. -/
def valid (c : Config) : Bool :=
  decide c.deviceIds.Nodup && (c.flagInvertMask != 0 && c.flagInvertMask &&& (c.flagInvertMask - 1) == 0) &&
    decide (c.autotrigArm.toNat < c.autotrigDisarm.toNat)

/-- The test configuration T0 of 00_scope.md section 6, over a given `DecodeConstants` (T0 leaves it uninterpreted). It claims
nothing of the hardware. -/
def t0 (decodeConstants : List Byte → Option (Nat × Nat × Nat)) : Config where
  cmdPing := 0x10
  cmdGetVersion := 0x11
  cmdGetConstants := 0x12
  cmdStartSampling := 0x13
  cmdSetTrigger := 0x14
  cmdSetHoldoff := 0x15
  cmdSetVref := 0x16
  cmdSetPrescaler := 0x17
  cmdGetParameters := 0x18
  cmdSetSamples := 0x19
  cmdSetAutotrig := 0x1A
  cmdSetFlags := 0x1B
  cmdSetChannels := 0x1C
  cmdWriteScratchpad := 0x1D
  cmdReadScratchpad := 0x1E
  cmdSetPwm1 := 0x1F
  cmdGetPwm1 := 0x20
  cmdVersionReply := 0x81
  cmdBufferSeg := 0x82
  cmdParametersReply := 0x83
  cmdConstantsReply := 0x84
  cmdScratchpadReply := 0x85
  cmdPwm1Reply := 0x86
  cmdPong := 0x87
  cmdError := 0x88
  order := .le
  flagInvertMask := 0x01
  autotrigArm := 1
  autotrigDisarm := 100
  decodeConstants := decodeConstants

/-- The open parameters, uninterpreted (93_implementation_defined.md U1, U13; log entry 1, DESIGN CHOICE, safe). -/
opaque raw : Config

/-- The open parameters with the byte order this hardware fixes (20_memory.md R35: `LE`; log entry 2). -/
def rawLe : Config := { raw with order := .le }

/-- The machine's configuration. Rule R4 is a precondition of the spec (93_implementation_defined.md U14): a raw choice that
breaks it is no configuration, and T0's values stand in for it, so that `machine` satisfies R4 in every case and is every
configuration that satisfies R4 in some case (log entry 1). -/
def machine : Config := if rawLe.valid then rawLe else t0 raw.decodeConstants

/-- The draw `env.flush_ok`, free (00_scope.md section 7.3; 93_implementation_defined.md U21; log entry 3). -/
opaque flushDraw : Nat → Bool

/-- The draw `env.open_ok`, free (00_scope.md section 7.3; 93_implementation_defined.md U21; log entry 3). -/
opaque openDraw : Nat → Bool

end Config
end Sys2Proof
end

