-- ==== Sys2Proof/Syntax.lean ====
section
/-! DEFINITION. The operations (one constructor per row of spec/opcode_table.json), the forms in which they are encoded, and
the names by which a decoding is refused. -/

namespace Sys2Proof

/-- A one-shot registration `Option (cb, data)`; `none` is the null callback (10_state.md R22). -/
abbrev Registration := Option (Token × Token)

/-- `dec.st` (10_state.md R11). -/
inductive SubState where
  | size
  | sizeHigh
  | command
  | payload
  | checksum
deriving DecidableEq, Repr

/-- The classes of a received byte (30_encoding.md R53), with the fields of each. -/
inductive ByteClass where
  | sentinel
  | sizeShort (l : BitVec 7)
  | sizeLong (h : BitVec 7)
  | sizeLow (l : Byte)
  | command (c : Byte)
  | payload (d : Byte)
  | checksum (k : Byte)
deriving DecidableEq, Repr

/-- The operations. Each constructor is one row of spec/opcode_table.json. -/
inductive Instr where
  /-- ITEM.SENTINEL (R46). -/
  | itemSentinel
  /-- ITEM.FRAME_SHORT (R47): command, payload, checksum; `l` is the payload's length + 1. -/
  | itemFrameShort (c : Byte) (p : List Byte) (k : Byte)
  /-- ITEM.FRAME_LONG (R48): command, payload, checksum; `h ## l` is the payload's length + 1. -/
  | itemFrameLong (c : Byte) (p : List Byte) (k : Byte)
  /-- DEC.SENTINEL (R67). -/
  | decSentinel
  /-- DEC.SIZE_SHORT (R68): bits 6 to 0 of the byte. -/
  | decSizeShort (l : BitVec 7)
  /-- DEC.SIZE_LONG (R69): bits 6 to 0 of the byte. -/
  | decSizeLong (h : BitVec 7)
  /-- DEC.SIZE_LOW (R70). -/
  | decSizeLow (l : Byte)
  /-- DEC.COMMAND (R71). -/
  | decCommand (c : Byte)
  /-- DEC.PAYLOAD (R72). -/
  | decPayload (d : Byte)
  /-- DEC.CHECKSUM (R73); the byte has been folded into `dec.acc` before (R66). -/
  | decChecksum (k : Byte)
  /-- RX (R65). -/
  | rx (b : Byte)
  /-- DecReset (R74). -/
  | decReset
  /-- ENC.FRAME (R81). -/
  | encFrame (c : Byte) (p : List Byte)
  /-- ENC.SENTINEL (R86). -/
  | encSentinel (n : Nat)
  /-- Flush (R84). -/
  | flush
  /-- DISPATCH (R91). -/
  | dispatch (c : Byte) (p : List Byte)
  /-- H.PARAMETERS_REPLY (R92). -/
  | hParametersReply (p : List Byte)
  /-- H.VERSION_REPLY (R93). -/
  | hVersionReply (p : List Byte)
  /-- H.CONSTANTS_REPLY (R94). -/
  | hConstantsReply (p : List Byte)
  /-- H.PWM1_REPLY (R95). -/
  | hPwm1Reply (p : List Byte)
  /-- H.SCRATCHPAD_REPLY (R96). -/
  | hScratchpadReply (p : List Byte)
  /-- H.ERROR (R97). -/
  | hError (p : List Byte)
  /-- H.UNKNOWN (R98). -/
  | hUnknown (c : Byte)
  /-- P.PONG (R110). -/
  | pPong
  /-- P.VERSION (R111). -/
  | pVersion
  /-- P.PARAMETERS (R112). -/
  | pParameters
  /-- P.BUFFER_SEG (R113). -/
  | pBufferSeg (p : List Byte)
  /-- LinkInit (R108). -/
  | linkInit
  /-- StartSampling (R109). -/
  | startSampling
  /-- CONNECT (R106); `env.open_ok` is a draw. -/
  | connect
  /-- ARM_ONESHOT (R116). -/
  | armOneshot (reg : Registration)
  /-- SET_FREEZE (R118). -/
  | setFreeze (v : Bool)
  /-- SEND (R120). -/
  | send (c : Byte) (p : List Byte)
  /-- RESYNC (R121). -/
  | resync (n : Nat)
  /-- HOST.RESERVED_5 (R62). -/
  | hostReserved5
  /-- HOST.RESERVED_6 (R62). -/
  | hostReserved6
  /-- HOST.RESERVED_7 (R62). -/
  | hostReserved7
  /-- CMD_PING (R106): empty payload, sent by CONNECT. -/
  | cmdPing
  /-- CMD_GET_VERSION (R110): empty payload, sent by P.PONG. -/
  | cmdGetVersion
  /-- CMD_GET_CONSTANTS (R120): through SEND. -/
  | cmdGetConstants (p : List Byte)
  /-- CMD_START_SAMPLING (R109): sent only by StartSampling. -/
  | cmdStartSampling
  /-- CMD_SET_TRIGGER (R120): through SEND. -/
  | cmdSetTrigger (p : List Byte)
  /-- CMD_SET_HOLDOFF (R120): through SEND. -/
  | cmdSetHoldoff (p : List Byte)
  /-- CMD_SET_VREF (R120): through SEND. -/
  | cmdSetVref (p : List Byte)
  /-- CMD_SET_PRESCALER (R120): through SEND. -/
  | cmdSetPrescaler (p : List Byte)
  /-- CMD_GET_PARAMETERS (R111): empty payload, sent by P.VERSION. -/
  | cmdGetParameters
  /-- CMD_SET_SAMPLES (R120): through SEND. -/
  | cmdSetSamples (p : List Byte)
  /-- CMD_SET_AUTOTRIG (R116): two bytes, `Bytes16(threshold)`. -/
  | cmdSetAutotrig (threshold : U16)
  /-- CMD_SET_FLAGS (R120): through SEND. -/
  | cmdSetFlags (p : List Byte)
  /-- CMD_SET_CHANNELS (R120): through SEND. -/
  | cmdSetChannels (p : List Byte)
  /-- CMD_WRITE_SCRATCHPAD (R120): through SEND. -/
  | cmdWriteScratchpad (p : List Byte)
  /-- CMD_READ_SCRATCHPAD (R120): through SEND. -/
  | cmdReadScratchpad (p : List Byte)
  /-- CMD_SET_PWM1 (R120): through SEND. -/
  | cmdSetPwm1 (p : List Byte)
  /-- CMD_GET_PWM1 (R120): through SEND. -/
  | cmdGetPwm1 (p : List Byte)
  /-- CMD_VERSION_REPLY (R93, then R111). -/
  | cmdVersionReply (p : List Byte)
  /-- CMD_BUFFER_SEG (R113). -/
  | cmdBufferSeg (p : List Byte)
  /-- CMD_PARAMETERS_REPLY (R92, then R112). -/
  | cmdParametersReply (p : List Byte)
  /-- CMD_CONSTANTS_REPLY (R94). -/
  | cmdConstantsReply (p : List Byte)
  /-- CMD_SCRATCHPAD_REPLY (R96). -/
  | cmdScratchpadReply (p : List Byte)
  /-- CMD_PWM1_REPLY (R95). -/
  | cmdPwm1Reply (p : List Byte)
  /-- CMD_PONG (R110): the payload is ignored. -/
  | cmdPong (p : List Byte)
  /-- CMD_ERROR (R97). -/
  | cmdError (p : List Byte)
  /-- CMD_<unknown> (R98): a command byte equal to none of the eight device-to-host identifiers. -/
  | cmdUnknown (c : Byte) (p : List Byte)
deriving DecidableEq, Repr

/-- The operation a byte class selects (30_encoding.md R53, last column). -/
def ByteClass.instr : ByteClass → Instr
  | .sentinel => .decSentinel
  | .sizeShort l => .decSizeShort l
  | .sizeLong h => .decSizeLong h
  | .sizeLow l => .decSizeLow l
  | .command c => .decCommand c
  | .payload d => .decPayload d
  | .checksum k => .decChecksum k

/-- The operands that travel beside a host port code (30_encoding.md R62). -/
structure HostOperands where
  reg : Registration
  v : Bool
  c : Byte
  p : List Byte
  n : Nat
deriving DecidableEq, Repr

/-- Host port operands that are all zero. -/
def HostOperands.zero : HostOperands := ⟨none, false, 0, [], 0⟩

/-- What the environment presents to one step (00_scope.md R3): a received byte, a batch of received bytes (R2), or a call of
the host port. -/
inductive PortItem where
  | byte (b : Byte)
  | batch (bs : List Byte)
  | host (code : BitVec 3) (operands : HostOperands)
deriving DecidableEq, Repr

/-- The encoded forms of the opcode table's rows. -/
inductive Code where
  /-- The bytes of one whole wire item (30_encoding.md R45). -/
  | wire (bs : List Byte)
  /-- A received byte in a sub-state (30_encoding.md R53). -/
  | received (st : SubState) (b : Byte)
  /-- The operand of RX (40_frame_decoder.md R65). -/
  | channel (b : Byte)
  /-- A host port call (30_encoding.md R62). -/
  | host (code : BitVec 3) (operands : HostOperands)
  /-- The command byte and the payload of a received frame (30_encoding.md R56). -/
  | command (c : Byte) (p : List Byte)
deriving DecidableEq, Repr

/-- Why bytes are not one whole wire item. -/
inductive DecodeRefusal where
  /-- No byte at all. -/
  | empty
  /-- The bytes end before the item does (30_encoding.md R54). -/
  | truncated
  /-- The size field is `80 00` (30_encoding.md R57). -/
  | zeroLength
  /-- The checksum byte is wrong (30_encoding.md R52); the residue of the fold. -/
  | badChecksum (residue : Byte)
  /-- Bytes follow the item. -/
  | trailing
deriving DecidableEq, Repr

end Sys2Proof
end

