-- ==== Sys2Proof/WellFormed.lean ====
section
/-! DEFINITION. Which operations are well formed: the ranges the encoding tables of 30_encoding.md give their operands. -/

namespace Sys2Proof

/-- The exclusive or of a list of bytes, as the format's own condition states it (30_encoding.md R52: all bytes of a frame,
checksum included, fold to zero). -/
def foldsToZero (bs : List Byte) : Bool := bs.foldr (fun x k => x ^^^ k) 0 == 0

/-- Well-formedness. `ITEM.FRAME_SHORT`: total length 1 to 127 (R47) and a right checksum (R52). `ITEM.FRAME_LONG`: total length 1
to 32767 (R48, R57) and a right checksum. `DEC.SIZE_SHORT`: `l` not all zero (R47). `ENC.FRAME`: payload at most 32766 (R81).
`CMD_<unknown>`, `H.UNKNOWN`: none of the eight device-to-host identifiers (R59). Every other operand is unrestricted. -/
def Instr.wf (cfg : Config) : Instr → Bool
  | .itemFrameShort c p k =>
    decide (p.length + 1 ≤ 127) && foldsToZero (BitVec.ofNat 8 (p.length + 1) :: c :: p ++ [k])
  | .itemFrameLong c p k =>
    decide (p.length + 1 ≤ Config.maxTotalLen) &&
      foldsToZero (BitVec.ofNat 8 (128 + (p.length + 1) / 256) :: BitVec.ofNat 8 (p.length + 1) :: c :: p ++ [k])
  | .decSizeShort l => l != 0
  | .encFrame _ p => decide (p.length ≤ Config.maxPayload)
  | .hUnknown c => decide (c ∉ cfg.deviceIds)
  | .cmdUnknown c _ => decide (c ∉ cfg.deviceIds)
  | .itemSentinel => true
  | .decSentinel => true
  | .decSizeLong _ => true
  | .decSizeLow _ => true
  | .decCommand _ => true
  | .decPayload _ => true
  | .decChecksum _ => true
  | .rx _ => true
  | .decReset => true
  | .encSentinel _ => true
  | .flush => true
  | .dispatch _ _ => true
  | .hParametersReply _ => true
  | .hVersionReply _ => true
  | .hConstantsReply _ => true
  | .hPwm1Reply _ => true
  | .hScratchpadReply _ => true
  | .hError _ => true
  | .pPong => true
  | .pVersion => true
  | .pParameters => true
  | .pBufferSeg _ => true
  | .linkInit => true
  | .startSampling => true
  | .connect => true
  | .armOneshot _ => true
  | .setFreeze _ => true
  | .send _ _ => true
  | .resync _ => true
  | .hostReserved5 => true
  | .hostReserved6 => true
  | .hostReserved7 => true
  | .cmdPing => true
  | .cmdGetVersion => true
  | .cmdGetConstants _ => true
  | .cmdStartSampling => true
  | .cmdSetTrigger _ => true
  | .cmdSetHoldoff _ => true
  | .cmdSetVref _ => true
  | .cmdSetPrescaler _ => true
  | .cmdGetParameters => true
  | .cmdSetSamples _ => true
  | .cmdSetAutotrig _ => true
  | .cmdSetFlags _ => true
  | .cmdSetChannels _ => true
  | .cmdWriteScratchpad _ => true
  | .cmdReadScratchpad _ => true
  | .cmdSetPwm1 _ => true
  | .cmdGetPwm1 _ => true
  | .cmdVersionReply _ => true
  | .cmdBufferSeg _ => true
  | .cmdParametersReply _ => true
  | .cmdConstantsReply _ => true
  | .cmdScratchpadReply _ => true
  | .cmdPwm1Reply _ => true
  | .cmdPong _ => true
  | .cmdError _ => true

end Sys2Proof
end

