-- ==== Sys2Proof/Decode.lean ====
section
/-! DEFINITION. The decoder, total on any bytes and refusing by name, and after it the encoder; both from the tables of
30_encoding.md (R45 to R62). The size field and the checksum, used by the machine too, stand here. -/

namespace Sys2Proof

/-! ### Size field and checksum -/

/-- The exclusive or of a list of bytes, from 0x00 (30_encoding.md R52, 41_frame_encoder.md R83). -/
def xorFold (bs : List Byte) : Byte := bs.foldl (fun k x => k ^^^ x) 0

/-- Bits 6 to 0 of a first size byte. -/
def low7 (b : Byte) : BitVec 7 := b.extractLsb' 0 7

/-- Short form: `0 ## L[6:0]` (30_encoding.md R47). -/
def shortHeader (total : Nat) : List Byte := [(0#1 ++ BitVec.ofNat 7 total).cast rfl]

/-- Long form: `1 ## L[14:8]`, then `L[7:0]`, high part first (30_encoding.md R48, 20_memory.md R34). -/
def longHeader (total : Nat) : List Byte := [(1#1 ++ BitVec.ofNat 7 (total / 256)).cast rfl, BitVec.ofNat 8 total]

/-! ### Received bytes, by sub-state -/

/-- The classification of a received byte (30_encoding.md R53). -/
def classifyByte : SubState → Byte → ByteClass
  | .size, b => if b = 0 then .sentinel else if b.msb = false then .sizeShort (low7 b) else .sizeLong (low7 b)
  | .sizeHigh, b => .sizeLow b
  | .command, b => .command b
  | .payload, b => .payload b
  | .checksum, b => .checksum b

/-! ### Wire items -/

/-- The first `n` bytes of a list and the rest, if there are that many. -/
def takeExact : Nat → List Byte → Option (List Byte × List Byte)
  | 0, bs => some ([], bs)
  | _ + 1, [] => none
  | n + 1, b :: bs =>
    match takeExact n bs with
    | some (p, rest) => some (b :: p, rest)
    | none => none

/-- Command, payload and checksum of a frame whose size field is `header` and says `total` (30_encoding.md R49 to R52). -/
def readBody (header : List Byte) (total : Nat) (bs : List Byte) :
    Except DecodeRefusal ((Byte × List Byte × Byte) × List Byte) :=
  match bs with
  | [] => .error .truncated
  | c :: bs' =>
    match takeExact (total - 1) bs' with
    | some (p, k :: rest) =>
      if xorFold (header ++ c :: p) = k then .ok ((c, p, k), rest)
      else .error (.badChecksum (xorFold (header ++ c :: p) ^^^ k))
    | _ => .error .truncated

/-- The first wire item of a byte list that starts at a frame boundary, and the bytes after it (30_encoding.md R45 to R52). -/
def decodeItem : List Byte → Except DecodeRefusal (Instr × List Byte)
  | [] => .error .empty
  | b0 :: bs =>
    match classifyByte .size b0 with
    | .sentinel => .ok (.itemSentinel, bs)
    | .sizeShort l =>
      match readBody [b0] l.toNat bs with
      | .ok ((c, p, k), rest) => .ok (.itemFrameShort c p k, rest)
      | .error e => .error e
    | _ =>
      match bs with
      | [] => .error .truncated
      | b1 :: bs' =>
        if (low7 b0).toNat * 256 + b1.toNat = 0 then .error .zeroLength
        else
          match readBody [b0, b1] ((low7 b0).toNat * 256 + b1.toNat) bs' with
          | .ok ((c, p, k), rest) => .ok (.itemFrameLong c p k, rest)
          | .error e => .error e

/-- One whole wire item and nothing after it. -/
def decodeWire (bs : List Byte) : Except DecodeRefusal Instr :=
  match decodeItem bs with
  | .ok (i, []) => .ok i
  | .ok (_, _ :: _) => .error .trailing
  | .error e => .error e

/-! ### Host port and command identifiers -/

/-- The operation of a host port code (30_encoding.md R62). -/
def decodeHost (code : BitVec 3) (o : HostOperands) : Instr :=
  match code.toNat with
  | 0 => .connect
  | 1 => .armOneshot o.reg
  | 2 => .setFreeze o.v
  | 3 => .send o.c o.p
  | 4 => .resync o.n
  | 5 => .hostReserved5
  | 6 => .hostReserved6
  | _ => .hostReserved7

/-- The row of a received command byte: the eight device-to-host identifiers only, everything else is unknown
(30_encoding.md R55, R56, R59). -/
def decodeCommand (cfg : Config) (c : Byte) (p : List Byte) : Instr :=
  if c = cfg.cmdVersionReply then .cmdVersionReply p
  else if c = cfg.cmdBufferSeg then .cmdBufferSeg p
  else if c = cfg.cmdParametersReply then .cmdParametersReply p
  else if c = cfg.cmdConstantsReply then .cmdConstantsReply p
  else if c = cfg.cmdScratchpadReply then .cmdScratchpadReply p
  else if c = cfg.cmdPwm1Reply then .cmdPwm1Reply p
  else if c = cfg.cmdPong then .cmdPong p
  else if c = cfg.cmdError then .cmdError p
  else .cmdUnknown c p

/-! ### The decoder -/

/-- The decoder over every encoded form of the opcode table. -/
def decode (cfg : Config) : Code → Except DecodeRefusal Instr
  | .wire bs => decodeWire bs
  | .received st b => .ok (classifyByte st b).instr
  | .channel b => .ok (.rx b)
  | .host code o => .ok (decodeHost code o)
  | .command c p => .ok (decodeCommand cfg c p)

/-- The operation of what the environment presents to a step: a byte is RX, a batch is read as one wire item, a host call is
its code's operation. -/
def decodePort : PortItem → Except DecodeRefusal Instr
  | .byte b => .ok (.rx b)
  | .batch bs => decodeWire bs
  | .host code o => .ok (decodeHost code o)

/-! ### The opcode table's words (log entry 16) -/

/-- Byte `i` of a word whose first byte is the least significant. -/
def wordByte (w i : Nat) : Byte := BitVec.ofNat 8 (w / 256 ^ i)

/-- The bytes of a word of `nbits` bits, followed by zeros up to the longest item (32770 bytes, 30_encoding.md R54). -/
def wordBytes (nbits w : Nat) : List Byte :=
  (List.range (nbits / 8)).map (wordByte w) ++ List.replicate (32770 - nbits / 8) 0

/-- The operation read from a word: one byte is a host port code with operands of zero where its bits 7 to 3 are clear, else a
received byte in sub-state `Size`, where the decoder is right after reset; more than one byte is a wire item. -/
def decodeTableWord (nbits w : Nat) : Option Instr :=
  if nbits ≤ 8 then
    if w < 8 then some (decodeHost (BitVec.ofNat 3 w) .zero)
    else if w < 256 then some (classifyByte .size (BitVec.ofNat 8 w)).instr
    else none
  else
    match decodeItem (wordBytes nbits w) with
    | .ok (i, _) => some i
    | .error _ => none

/-! ### The encoder -/

/-- The bytes of a wire item (30_encoding.md R45). -/
def itemBytes : Instr → List Byte
  | .itemSentinel => [0]
  | .itemFrameShort c p k => shortHeader (p.length + 1) ++ c :: p ++ [k]
  | .itemFrameLong c p k => longHeader (p.length + 1) ++ c :: p ++ [k]
  | _ => []

/-- The encoded form of an operation, from the tables of 30_encoding.md. The internal operations have no encoding, and the
engine looks no host-to-device identifier up (30_encoding.md R56): for those `sentFrame` says what is sent. -/
def encode (cfg : Config) : Instr → Option Code
  | .itemSentinel => some (.wire (itemBytes .itemSentinel))
  | .itemFrameShort c p k => some (.wire (itemBytes (.itemFrameShort c p k)))
  | .itemFrameLong c p k => some (.wire (itemBytes (.itemFrameLong c p k)))
  | .decSentinel => some (.received .size 0)
  | .decSizeShort l => some (.received .size ((0#1 ++ l).cast rfl))
  | .decSizeLong h => some (.received .size ((1#1 ++ h).cast rfl))
  | .decSizeLow l => some (.received .sizeHigh l)
  | .decCommand c => some (.received .command c)
  | .decPayload d => some (.received .payload d)
  | .decChecksum k => some (.received .checksum k)
  | .rx b => some (.channel b)
  | .connect => some (.host 0 .zero)
  | .armOneshot reg => some (.host 1 { HostOperands.zero with reg := reg })
  | .setFreeze v => some (.host 2 { HostOperands.zero with v := v })
  | .send c p => some (.host 3 { HostOperands.zero with c := c, p := p })
  | .resync n => some (.host 4 { HostOperands.zero with n := n })
  | .hostReserved5 => some (.host 5 .zero)
  | .hostReserved6 => some (.host 6 .zero)
  | .hostReserved7 => some (.host 7 .zero)
  | .cmdVersionReply p => some (.command cfg.cmdVersionReply p)
  | .cmdBufferSeg p => some (.command cfg.cmdBufferSeg p)
  | .cmdParametersReply p => some (.command cfg.cmdParametersReply p)
  | .cmdConstantsReply p => some (.command cfg.cmdConstantsReply p)
  | .cmdScratchpadReply p => some (.command cfg.cmdScratchpadReply p)
  | .cmdPwm1Reply p => some (.command cfg.cmdPwm1Reply p)
  | .cmdPong p => some (.command cfg.cmdPong p)
  | .cmdError p => some (.command cfg.cmdError p)
  | .cmdUnknown c p => some (.command c p)
  | .decReset => none
  | .encFrame _ _ => none
  | .encSentinel _ => none
  | .flush => none
  | .dispatch _ _ => none
  | .hParametersReply _ => none
  | .hVersionReply _ => none
  | .hConstantsReply _ => none
  | .hPwm1Reply _ => none
  | .hScratchpadReply _ => none
  | .hError _ => none
  | .hUnknown _ => none
  | .pPong => none
  | .pVersion => none
  | .pParameters => none
  | .pBufferSeg _ => none
  | .linkInit => none
  | .startSampling => none
  | .cmdPing => none
  | .cmdGetVersion => none
  | .cmdGetConstants _ => none
  | .cmdStartSampling => none
  | .cmdSetTrigger _ => none
  | .cmdSetHoldoff _ => none
  | .cmdSetVref _ => none
  | .cmdSetPrescaler _ => none
  | .cmdGetParameters => none
  | .cmdSetSamples _ => none
  | .cmdSetAutotrig _ => none
  | .cmdSetFlags _ => none
  | .cmdSetChannels _ => none
  | .cmdWriteScratchpad _ => none
  | .cmdReadScratchpad _ => none
  | .cmdSetPwm1 _ => none
  | .cmdGetPwm1 _ => none

/-- `Bytes16(v)` (20_memory.md R35). -/
def bytes16 (order : ByteOrder) (v : U16) : List Byte :=
  match order with
  | .le => [v.extractLsb' 0 8, v.extractLsb' 8 8]
  | .be => [v.extractLsb' 8 8, v.extractLsb' 0 8]

/-- The command byte and the payload that a host-to-device row puts on the wire (30_encoding.md R55, first table). -/
def sentFrame (cfg : Config) : Instr → Option (Byte × List Byte)
  | .cmdPing => some (cfg.cmdPing, [])
  | .cmdGetVersion => some (cfg.cmdGetVersion, [])
  | .cmdGetParameters => some (cfg.cmdGetParameters, [])
  | .cmdStartSampling => some (cfg.cmdStartSampling, [])
  | .cmdSetAutotrig t => some (cfg.cmdSetAutotrig, bytes16 cfg.order t)
  | .cmdGetConstants p => some (cfg.cmdGetConstants, p)
  | .cmdSetTrigger p => some (cfg.cmdSetTrigger, p)
  | .cmdSetHoldoff p => some (cfg.cmdSetHoldoff, p)
  | .cmdSetVref p => some (cfg.cmdSetVref, p)
  | .cmdSetPrescaler p => some (cfg.cmdSetPrescaler, p)
  | .cmdSetSamples p => some (cfg.cmdSetSamples, p)
  | .cmdSetFlags p => some (cfg.cmdSetFlags, p)
  | .cmdSetChannels p => some (cfg.cmdSetChannels, p)
  | .cmdWriteScratchpad p => some (cfg.cmdWriteScratchpad, p)
  | .cmdReadScratchpad p => some (cfg.cmdReadScratchpad, p)
  | .cmdSetPwm1 p => some (cfg.cmdSetPwm1, p)
  | .cmdGetPwm1 p => some (cfg.cmdGetPwm1, p)
  | _ => none

end Sys2Proof
end

