-- ==== Sys2Proof/Machine/State.lean ====
section
/-! DEFINITION. The state of the engine (10_state.md), the events of its output trace (00_scope.md section 7.3), the values
operations return, the reasons a step can stop, and the state after reset (10_state.md R29, 70_reset_and_hazards.md R145). -/

namespace Sys2Proof

/-- Hardware code of `dec.st` (10_state.md R11). -/
def SubState.code : SubState → BitVec 3
  | .size => 0
  | .sizeHigh => 1
  | .command => 2
  | .payload => 3
  | .checksum => 4

namespace Machine

/-- `link.phase` (10_state.md R17). -/
inductive Phase where
  | ping
  | gettingVersion
  | gettingParameters
  | sampling
deriving DecidableEq, Repr

/-- Hardware code of `link.phase` (10_state.md R17). -/
def Phase.code : Phase → BitVec 2
  | .ping => 0
  | .gettingVersion => 1
  | .gettingParameters => 2
  | .sampling => 3

/-- DeviceParameters (10_state.md R24). -/
structure DeviceParameters where
  triggerLevel : Byte
  holdoffSamples : Byte
  adcRef : Byte
  prescale : Byte
  numSamples : U16
  flags : Byte
  channels : Byte
  autotriggerSamples : U16
deriving DecidableEq, Repr

/-- PwmConfig (10_state.md R25). -/
structure PwmConfig where
  clockDivider : Byte
  max : U16
  countA : U16
  countB : U16
deriving DecidableEq, Repr

/-- The kinds of a log event (60_exceptions.md R125). -/
inductive LogKind where
  | framingChecksum
  | framingLength
  | unknownCommand
  | outOfPhase
  | malformed
  | transportOpen
  | transportFlush
  | refused
  | unhandled
  | deviceError
deriving DecidableEq, Repr

/-- The code of a kind on the log port (60_exceptions.md R125). -/
def LogKind.code : LogKind → BitVec 4
  | .framingChecksum => 1
  | .framingLength => 2
  | .unknownCommand => 3
  | .outOfPhase => 4
  | .malformed => 5
  | .transportOpen => 6
  | .transportFlush => 7
  | .refused => 8
  | .unhandled => 9
  | .deviceError => 10

/-- Why a host operation is refused (60_exceptions.md R125, row 8). -/
inductive RefusedReason where
  | encodeTooLong
  | notConnected
  | startSamplingIsOwned
deriving DecidableEq, Repr

/-- The `info` of a log event (60_exceptions.md R125). -/
inductive Info where
  | none
  | byte (b : Byte)
  | bytes (p : List Byte)
  | reason (r : RefusedReason)
  | hostOp (code : BitVec 3)
deriving DecidableEq, Repr

/-- The events of the output trace (00_scope.md section 7.3). -/
inductive Event where
  | txByte (b : Byte)
  | txFlush
  | onParameters (p : DeviceParameters)
  | onConstants (frequencyHz avccMillivolts vrefMillivolts : Nat)
  | onSampleFrame (p : List Byte)
  | onOneshotComplete (cb data : Token)
  | onPwm1 (w : PwmConfig)
  | log (kind : LogKind) (info : Info)
deriving DecidableEq, Repr

/-- The two framing errors `DecStep` can return (40_frame_decoder.md R76). -/
inductive FramingError where
  | checksum
  | length
deriving DecidableEq, Repr

/-- What an operation returns to its caller: `DecStep` (40_frame_decoder.md R76), `Flush` and the sends (41_frame_encoder.md
R84, R85), `CONNECT` (43_flow_controller.md R106), the global handlers (42_command_dispatcher.md R92, R93). `none` is the result of
an operation that returns nothing. -/
inductive Result where
  | none
  | noFrame
  | frame (c : Byte) (p : List Byte)
  | err (k : FramingError)
  | ok
  | flushFailed
  | refused
  | failed
  | rejected
deriving DecidableEq, Repr

/-- DecoderState (10_state.md R11 to R15). `buf` holds the 32766 bytes of the payload buffer: it lists,
addresses strictly rising, those that differ from what an unlisted address reads as (log entry 4). -/
structure DecState where
  st : SubState
  acc : Byte
  rem : U15
  cmd : Byte
  n : U15
  buf : List Host.Cell
deriving DecidableEq, Repr

/-- LinkState and the caches (10_state.md R16 to R25). -/
structure LinkState where
  up : Bool
  phase : Phase
  inRequest : Bool
  freeze : Bool
  delayRequest : Bool
  triggerInvert : Bool
  oneshot : Registration
  version : Option (Byte × Byte)
  params : Option DeviceParameters
  constants : Option (Nat × Nat × Nat)
  pwm1 : Option PwmConfig
deriving DecidableEq, Repr

/-- The environment's side, the MODEL's own (log entries 3 and 5): what it presents next, oldest first; its answers to coming
draws that are already laid down; and how many draws went beyond them. -/
structure Env where
  input : List PortItem
  openAnswers : List Bool
  flushAnswers : List Bool
  drawn : Nat
deriving DecidableEq, Repr

/-- The state: the registers and the trace of 10_state.md R10, the environment's side, and the value the last operation
returned (the MODEL's own, log entry 8). -/
structure State where
  dec : DecState
  link : LinkState
  out : List Event
  env : Env
  result : Result
deriving DecidableEq, Repr

/-- Why the machine stops. None is reachable from reset: `Safety.engineInv` holds there and every step from it goes on. -/
inductive Fault where
  /-- Raised by DEC.PAYLOAD and DEC.CHECKSUM for an index at or above BUF_CAP, no address of the buffer (20_memory.md R30). Safe. -/
  | bufferRange (addr : Nat)
  /-- Raised by DEC.COMMAND and DEC.PAYLOAD with `dec.rem = 0` (30_encoding.md R63 (d): decremented only when at least 1). Safe. -/
  | counterUnderflow
deriving DecidableEq, Repr

/-- Why an operation is refused as a whole. No meaning raises it. -/
inductive Refusal where
  /-- Raised by `exec` for an operation that has no meaning yet; there is none left. Safe. -/
  | notModelled (mnemonic : String)
deriving DecidableEq, Repr

/-- The outcome of a step of this machine. -/
abbrev Out := Host.Outcome State Fault Refusal

/-- A value returned and the state it leaves. -/
abbrev Ret := Result × State

/-- The decoder's reset values (10_state.md R29; `buf` unspecified: nothing is listed, so that every byte reads as 0x00, log entry 4). -/
def DecState.reset : DecState := ⟨.size, 0, 0, 0, 0, []⟩

/-- The controller's reset values (10_state.md R29). -/
def LinkState.reset : LinkState :=
  ⟨false, .ping, false, false, false, false, none, none, none, none, none⟩

/-- The state after hardware reset (10_state.md R29, 70_reset_and_hazards.md R145 (a)), with nothing presented by the environment
(log entries 3, 5, 8). -/
def State.reset : State := ⟨.reset, .reset, [], ⟨[], [], [], 0⟩, .none⟩

end Machine
end Sys2Proof
end

