-- ==== Sys2Proof/Machine/Operands.lean ====
section
/-! DEFINITION. Operand forms: the assembly of lengths and record fields from bytes (30_encoding.md section 3, 20_memory.md R34 to
R39, 42_command_dispatcher.md R100, R101) and the frame's bytes (41_frame_encoder.md R81). -/

namespace Sys2Proof
namespace Machine

/-! ### Lengths -/

/-- `zext_15(b[6:0])` (40_frame_decoder.md R68). -/
def lenShort (l : BitVec 7) : U15 := l.setWidth 15

/-- `zext_15(b[6:0]) << 8` (40_frame_decoder.md R69). -/
def lenHigh (h : BitVec 7) : U15 := h.setWidth 15 <<< 8

/-- `dec.rem | zext_15(b)` (40_frame_decoder.md R70). -/
def lenJoin (rem : U15) (l : Byte) : U15 := rem ||| l.setWidth 15

/-! ### Record fields -/

/-- `p[i]` of a payload long enough to have it. -/
def byteAt (p : List Byte) (i : Nat) : Byte := p.getD i 0

/-- `U16(p, i)` (20_memory.md R35). -/
def u16At (order : ByteOrder) (p : List Byte) (i : Nat) : U16 :=
  match order with
  | .le => byteAt p (i + 1) ++ byteAt p i
  | .be => byteAt p i ++ byteAt p (i + 1)

/-- `DecodeParams(p)`, for 10 bytes or more (42_command_dispatcher.md R100, layout of 20_memory.md R38). -/
def decodeParams (order : ByteOrder) (p : List Byte) : DeviceParameters where
  triggerLevel := byteAt p 0
  holdoffSamples := byteAt p 1
  adcRef := byteAt p 2
  prescale := byteAt p 3
  numSamples := u16At order p 4
  flags := byteAt p 6
  channels := byteAt p 7
  autotriggerSamples := u16At order p 8

/-- `DecodePwm(p)`, for 7 bytes or more (42_command_dispatcher.md R101, layout of 20_memory.md R39). -/
def decodePwm (order : ByteOrder) (p : List Byte) : PwmConfig where
  clockDivider := byteAt p 0
  max := u16At order p 1
  countA := u16At order p 3
  countB := u16At order p 5

/-- The threshold SET_AUTOTRIG carries: a callback arms, the null callback disarms (43_flow_controller.md R116). -/
def armThreshold (cfg : Config) (reg : Registration) : U16 :=
  match reg with
  | some _ => cfg.autotrigArm
  | none => cfg.autotrigDisarm

/-! ### Frames -/

/-- The size field of a total length: short form up to 127, else long (41_frame_encoder.md R82). -/
def frameHeader (total : Nat) : List Byte := if total ≤ 127 then shortHeader total else longHeader total

/-- `body` of ENC.FRAME: size field, command, payload (41_frame_encoder.md R81). -/
def frameBody (c : Byte) (p : List Byte) : List Byte := frameHeader (p.length + 1) ++ [c] ++ p

/-- The bytes of a frame: the body and its checksum (41_frame_encoder.md R81, R83). -/
def frameBytes (c : Byte) (p : List Byte) : List Byte := frameBody c p ++ [xorFold (frameBody c p)]

end Machine
end Sys2Proof
end

