-- ==== Sys2Proof/Machine/Flags.lean ====
section
/-! DEFINITION. The flag computations: the checksum fold (40_frame_decoder.md R66, R73), the trigger-invert bit (10_state.md R21)
and the tests of the controller's branches (43_flow_controller.md R113). -/

namespace Sys2Proof
namespace Machine

/-- The fold of one received byte into the accumulator (40_frame_decoder.md R66). -/
def foldByte (acc b : Byte) : Byte := acc ^^^ b

/-- A frame is valid iff the accumulator is zero after the checksum byte is folded in (30_encoding.md R52). -/
def checksumOk (acc : Byte) : Bool := acc == 0

/-- `(flags & FLAG_INVERT_MASK) != 0` (10_state.md R21, 42_command_dispatcher.md R92). -/
def invertFlag (cfg : Config) (flags : Byte) : Bool := flags &&& cfg.flagInvertMask != 0

end Machine
end Sys2Proof
end

