-- ==== Sys2Proof/Machine/Ops.lean ====
section
/-! DEFINITION. The shared operations: the payload buffer, the trace, raising an error, the environment's draws, the flush and the
two emissions, and the returns of operations. -/

namespace Sys2Proof
namespace Machine

/-! ### The payload buffer (20_memory.md R30, R31, R37) -/

/-- What a byte of the buffer that no entry lists reads as. The spec leaves the buffer's content after reset unspecified (10_state.md
R29): the model's value, log entry 4, DESIGN CHOICE, unsafe. -/
def unlistedByte : Byte := 0x00

/-- The byte at an address: every byte of the buffer holds a value. -/
def readByte (a : Nat) : List Host.Cell → Byte
  | [] => unlistedByte
  | (x, v) :: m => if x = a then v else readByte a m

/-- The list without the entries of an address. -/
def eraseByte (a : Nat) (m : List Host.Cell) : List Host.Cell := m.filter (fun c => c.1 != a)

/-- The list with an entry put before the first of a higher address. -/
def insertByte (a : Nat) (v : Byte) : List Host.Cell → List Host.Cell
  | [] => [(a, v)]
  | (x, w) :: m => if a < x then (a, v) :: (x, w) :: m else (x, w) :: insertByte a v m

/-- The list with one byte stored, in canonical form: a byte equal to what an unlisted address reads as is not listed. -/
def storeByte (a : Nat) (v : Byte) (m : List Host.Cell) : List Host.Cell :=
  if v = unlistedByte then eraseByte a m else insertByte a v (eraseByte a m)

/-- `MemWrite(a, 1, [v])`; `none` where the index is no address of the buffer (20_memory.md R30). -/
def memWrite (a : Nat) (v : Byte) (m : List Host.Cell) : Option (List Host.Cell) :=
  if a < Config.bufCap then some (storeByte a v m) else none

/-- `MemRead(a, n)`: `n` bytes in index order, or the fault of the first index that is no address of the buffer. -/
def memRead (m : List Host.Cell) (a : Nat) : Nat → Except Fault (List Byte)
  | 0 => .ok []
  | n + 1 =>
    if a < Config.bufCap then
      match memRead m (a + 1) n with
      | .ok p => .ok (readByte a m :: p)
      | .error f => .error f
    else .error (.bufferRange a)

/-- The canonical form of the buffer: addresses strictly rising, all of them addresses of the buffer, and no entry equal to what an
unlisted address reads as. -/
def Memory.wf (m : List Host.Cell) : Bool :=
  decide ((m.map Prod.fst).Pairwise (· < ·)) && m.all (fun c => decide (c.1 < Config.bufCap) && c.2 != unlistedByte)

/-! ### The trace and the errors -/

/-- `Emit` of events in order (00_scope.md section 7.3). -/
def emit (es : List Event) (s : State) : State := { s with out := s.out ++ es }

/-- `raise <Error>(info)`: the one way an error is taken. It appends its log event and saves nothing; the recovery stands in the
rule that raises it (00_scope.md section 7.3, 60_exceptions.md R137). There is no return from it (R138). -/
def raise (kind : LogKind) (info : Info) (s : State) : State := emit [.log kind info] s

/-! ### Returns -/

/-- The end of an operation: the value returned is left for the caller to read (log entry 8). -/
def leave (r : Ret) : Out := .next { r.2 with result := r.1 }

/-- The end of an operation that may have faulted. -/
def finish : Host.Outcome Ret Fault Refusal → Out
  | .next r => leave r
  | .fault f => .fault f
  | .refused r => .refused r

/-- An operation that returns nothing. -/
def noResult (s : State) : Ret := (.none, s)

/-! ### Draws (00_scope.md section 7.3, log entry 3) -/

/-- The answer to the next draw of `env.flush_ok`. -/
def flushAnswer (s : State) : Bool :=
  match s.env.flushAnswers with
  | a :: _ => a
  | [] => Config.flushDraw s.env.drawn

/-- The environment after that draw. -/
def Env.afterFlush (e : Env) : Env :=
  match e.flushAnswers with
  | _ :: rest => { e with flushAnswers := rest }
  | [] => { e with drawn := e.drawn + 1 }

/-- The answer to the next draw of `env.open_ok`. -/
def openAnswer (s : State) : Bool :=
  match s.env.openAnswers with
  | a :: _ => a
  | [] => Config.openDraw s.env.drawn

/-- The environment after that draw. -/
def Env.afterOpen (e : Env) : Env :=
  match e.openAnswers with
  | _ :: rest => { e with openAnswers := rest }
  | [] => { e with drawn := e.drawn + 1 }

/-! ### Flush and emission (41_frame_encoder.md) -/

/-- `Flush()` (41_frame_encoder.md R84): the barrier, the draw, and the report of a failure; no retry. -/
def flushOp (s : State) : Ret :=
  if flushAnswer s then (.ok, emit [.txFlush] { s with env := s.env.afterFlush })
  else (.flushFailed, raise .transportFlush .none (emit [.txFlush] { s with env := s.env.afterFlush }))

/-- `ENC.FRAME(c, p)`, written `Send(c, p)` (41_frame_encoder.md R81, R85). -/
def sendFrame (c : Byte) (p : List Byte) (s : State) : Ret :=
  if p.length > Config.maxPayload then (.refused, raise .refused (.reason .encodeTooLong) s)
  else flushOp (emit ((frameBytes c p).map .txByte) s)

/-- `ENC.SENTINEL(n)` (41_frame_encoder.md R86). -/
def sendSentinels (n : Nat) (s : State) : Ret :=
  flushOp (emit (List.replicate n (.txByte 0)) s)

end Machine
end Sys2Proof
end

