-- ==== Sys2Proof/Machine/Controller.lean ====
section
/-! DEFINITION. The Acquisition Flow Controller's helpers and frame-driven handlers (43_flow_controller.md). Each operation is
written over a configuration; the meaning of its row takes the machine's. -/

namespace Sys2Proof
namespace Machine

/-! ### Helpers -/

/-- `LinkInit` (R108). `link.up` is not of its list. -/
def linkInit (s : State) : State :=
  { s with link := { s.link with
      phase := .ping, inRequest := false, freeze := false, delayRequest := false, triggerInvert := false,
      oneshot := none, version := none, params := none, constants := none, pwm1 := none } }

/-- `StartSampling()` (R109): the only place a START_SAMPLING frame is made; `in_request` is set whatever the flush answers. -/
def startSampling (cfg : Config) (s : State) : Ret :=
  let r := sendFrame cfg.cmdStartSampling [] s
  (r.1, { r.2 with link := { r.2.link with inRequest := true } })

/-- The register write `link.phase <- ph`. -/
def setPhase (ph : Phase) (s : State) : State := { s with link := { s.link with phase := ph } }

/-! ### Frame-driven handlers -/

/-- `P.PONG` (R110). -/
def pPong (cfg : Config) (s : State) : State :=
  if s.link.phase = .ping then setPhase .gettingVersion (sendFrame cfg.cmdGetVersion [] s).2
  else raise .outOfPhase (.byte cfg.cmdPong) s

/-- `P.VERSION` (R111). -/
def pVersion (cfg : Config) (s : State) : State :=
  if s.link.phase = .gettingVersion then setPhase .gettingParameters (sendFrame cfg.cmdGetParameters [] s).2
  else raise .outOfPhase (.byte cfg.cmdVersionReply) s

/-- `P.PARAMETERS` (R112). -/
def pParameters (cfg : Config) (s : State) : State :=
  if s.link.phase = .gettingParameters then setPhase .sampling (startSampling cfg s).2
  else s

/-- The three branches of `P.BUFFER_SEG` after the delivery (R113): fire, re-issue, or stay quiescent. -/
def bufferSegBranch (cfg : Config) (s : State) : State :=
  match s.link.oneshot, s.link.delayRequest with
  | some (cb, data), false =>
    let s1 := emit [.onOneshotComplete cb data] { s with link := { s.link with inRequest := false } }
    { s1 with link := { s1.link with oneshot := none } }
  | _, _ =>
    if s.link.freeze = false then (startSampling cfg s).2
    else { s with link := { s.link with inRequest := false } }

/-- `P.BUFFER_SEG(p)` (R113). -/
def pBufferSeg (cfg : Config) (p : List Byte) (s : State) : State :=
  if s.link.phase = .sampling then
    let s1 := bufferSegBranch cfg (emit [.onSampleFrame p] s)
    { s1 with link := { s1.link with delayRequest := false } }
  else raise .outOfPhase (.byte cfg.cmdBufferSeg) s

/-! ### Meanings -/

/-- LinkInit (R108). -/
def execLinkInit (s : State) : Out := leave (noResult (linkInit s))

/-- StartSampling (R109). -/
def execStartSampling (s : State) : Out := leave (startSampling Config.machine s)

/-- P.PONG (R110). -/
def execPPong (s : State) : Out := leave (noResult (pPong Config.machine s))

/-- P.VERSION (R111). -/
def execPVersion (s : State) : Out := leave (noResult (pVersion Config.machine s))

/-- P.PARAMETERS (R112). -/
def execPParameters (s : State) : Out := leave (noResult (pParameters Config.machine s))

/-- P.BUFFER_SEG (R113). -/
def execPBufferSeg (p : List Byte) (s : State) : Out := leave (noResult (pBufferSeg Config.machine p s))

end Machine
end Sys2Proof
end

