-- ==== Sys2Proof/Machine/Dispatcher.lean ====
section
/-! DEFINITION. The Command Dispatcher and the handlers that do not depend on the phase (42_command_dispatcher.md). -/

namespace Sys2Proof
namespace Machine

/-! ### Global handlers -/

/-- `H.PARAMETERS_REPLY(p)` (R92). -/
def hParametersReply (cfg : Config) (p : List Byte) (s : State) : Ret :=
  if p.length < 10 then (.rejected, raise .malformed (.byte cfg.cmdParametersReply) s)
  else
    let ps := decodeParams cfg.order p
    (.ok, emit [.onParameters ps]
      { s with link := { s.link with params := some ps, triggerInvert := invertFlag cfg ps.flags } })

/-- `H.VERSION_REPLY(p)` (R93). -/
def hVersionReply (cfg : Config) (p : List Byte) (s : State) : Ret :=
  if p.length < 2 then (.rejected, raise .malformed (.byte cfg.cmdVersionReply) s)
  else (.ok, { s with link := { s.link with version := some (byteAt p 0, byteAt p 1) } })

/-- `H.CONSTANTS_REPLY(p)` (R94). -/
def hConstantsReply (cfg : Config) (p : List Byte) (s : State) : State :=
  match cfg.decodeConstants p with
  | none => raise .malformed (.byte cfg.cmdConstantsReply) s
  | some (f, a, v) => emit [.onConstants f a v] { s with link := { s.link with constants := some (f, a, v) } }

/-- `H.PWM1_REPLY(p)` (R95). -/
def hPwm1Reply (cfg : Config) (p : List Byte) (s : State) : State :=
  if p.length < 7 then raise .malformed (.byte cfg.cmdPwm1Reply) s
  else emit [.onPwm1 (decodePwm cfg.order p)] { s with link := { s.link with pwm1 := some (decodePwm cfg.order p) } }

/-- `H.SCRATCHPAD_REPLY(p)` (R96): the payload is not read. -/
def hScratchpadReply (cfg : Config) (_p : List Byte) (s : State) : State :=
  emit [.log .unhandled (.byte cfg.cmdScratchpadReply)] s

/-- `H.ERROR(p)` (R97). -/
def hError (p : List Byte) (s : State) : State := emit [.log .deviceError (.bytes p)] s

/-- `H.UNKNOWN(c)` (R98). -/
def hUnknown (c : Byte) (s : State) : State := raise .unknownCommand (.byte c) s

/-! ### Routing -/

/-- A PARAMETERS_REPLY: the global handler, and the phase handler if it accepted (R91, R112). -/
def parametersReply (cfg : Config) (p : List Byte) (s : State) : State :=
  let r := hParametersReply cfg p s
  if r.1 = .ok then pParameters cfg r.2 else r.2

/-- A VERSION_REPLY: the global handler, and the phase handler if it accepted (R91, R111). -/
def versionReply (cfg : Config) (p : List Byte) (s : State) : State :=
  let r := hVersionReply cfg p s
  if r.1 = .ok then pVersion cfg r.2 else r.2

/-- `DISPATCH(c, p)` (R91). -/
def dispatch (cfg : Config) (c : Byte) (p : List Byte) (s : State) : State :=
  if c = cfg.cmdParametersReply then parametersReply cfg p s
  else if c = cfg.cmdVersionReply then versionReply cfg p s
  else if c = cfg.cmdPong then pPong cfg s
  else if c = cfg.cmdBufferSeg then pBufferSeg cfg p s
  else if c = cfg.cmdConstantsReply then hConstantsReply cfg p s
  else if c = cfg.cmdPwm1Reply then hPwm1Reply cfg p s
  else if c = cfg.cmdScratchpadReply then hScratchpadReply cfg p s
  else if c = cfg.cmdError then hError p s
  else hUnknown c s

/-! ### Meanings -/

/-- DISPATCH (R91). -/
def execDispatch (c : Byte) (p : List Byte) (s : State) : Out := leave (noResult (dispatch Config.machine c p s))

/-- H.PARAMETERS_REPLY (R92). -/
def execHParametersReply (p : List Byte) (s : State) : Out := leave (hParametersReply Config.machine p s)

/-- H.VERSION_REPLY (R93). -/
def execHVersionReply (p : List Byte) (s : State) : Out := leave (hVersionReply Config.machine p s)

/-- H.CONSTANTS_REPLY (R94). -/
def execHConstantsReply (p : List Byte) (s : State) : Out := leave (noResult (hConstantsReply Config.machine p s))

/-- H.PWM1_REPLY (R95). -/
def execHPwm1Reply (p : List Byte) (s : State) : Out := leave (noResult (hPwm1Reply Config.machine p s))

/-- H.SCRATCHPAD_REPLY (R96). -/
def execHScratchpadReply (p : List Byte) (s : State) : Out := leave (noResult (hScratchpadReply Config.machine p s))

/-- H.ERROR (R97). -/
def execHError (p : List Byte) (s : State) : Out := leave (noResult (hError p s))

/-- H.UNKNOWN (R98). -/
def execHUnknown (c : Byte) (s : State) : Out := leave (noResult (hUnknown c s))

end Machine
end Sys2Proof
end

