-- ==== Sys2Proof/Machine/Decoder.lean ====
section
/-! DEFINITION. The Frame Decoder (40_frame_decoder.md): the seven arms, `DecReset`, the byte step `RX`, and the delivery of a
batch of bytes (00_scope.md R2), by which the wire items act. -/

namespace Sys2Proof
namespace Machine

/-! ### DecReset and the arms -/

/-- `DecReset` (R74): `dec.buf` is not cleared. -/
def decReset (s : State) : State :=
  { s with dec := { s.dec with st := .size, acc := 0, rem := 0, cmd := 0, n := 0 } }

/-- `DEC.SENTINEL` (R67). -/
def decSentinel (s : State) : Host.Outcome Ret Fault Refusal := .next (.noFrame, decReset s)

/-- `DEC.SIZE_SHORT(b)` (R68), with `l = b[6:0]`. -/
def decSizeShort (l : BitVec 7) (s : State) : Host.Outcome Ret Fault Refusal :=
  .next (.noFrame, { s with dec := { s.dec with rem := lenShort l, st := .command } })

/-- `DEC.SIZE_LONG(b)` (R69), with `h = b[6:0]`. -/
def decSizeLong (h : BitVec 7) (s : State) : Host.Outcome Ret Fault Refusal :=
  .next (.noFrame, { s with dec := { s.dec with rem := lenHigh h, st := .sizeHigh } })

/-- `DEC.SIZE_LOW(b)` (R70): a total length of zero is the error `FramingLength`. -/
def decSizeLow (l : Byte) (s : State) : Host.Outcome Ret Fault Refusal :=
  if lenJoin s.dec.rem l = 0 then .next (.err .length, decReset (raise .framingLength .none s))
  else .next (.noFrame, { s with dec := { s.dec with rem := lenJoin s.dec.rem l, st := .command } })

/-- `DEC.COMMAND(b)` (R71). With `dec.rem = 0` the counter cannot be decremented (30_encoding.md R63 (d); log entry 10). -/
def decCommand (c : Byte) (s : State) : Host.Outcome Ret Fault Refusal :=
  if s.dec.rem = 0 then .fault .counterUnderflow
  else .next (.noFrame, { s with dec := { s.dec with
    cmd := c, n := 0, rem := s.dec.rem - 1, st := if s.dec.rem - 1 = 0 then .checksum else .payload } })

/-- `DEC.PAYLOAD(b)` (R72). -/
def decPayload (d : Byte) (s : State) : Host.Outcome Ret Fault Refusal :=
  if s.dec.rem = 0 then .fault .counterUnderflow
  else
    match memWrite s.dec.n.toNat d s.dec.buf with
    | none => .fault (.bufferRange s.dec.n.toNat)
    | some buf => .next (.noFrame, { s with dec := { s.dec with
        buf := buf, n := s.dec.n + 1, rem := s.dec.rem - 1,
        st := if s.dec.rem - 1 = 0 then .checksum else s.dec.st } })

/-- `DEC.CHECKSUM` (R73): the payload is copied out before `DecReset`. -/
def decChecksum (s : State) : Host.Outcome Ret Fault Refusal :=
  if checksumOk s.dec.acc then
    match memRead s.dec.buf 0 s.dec.n.toNat with
    | .ok p => .next (.frame s.dec.cmd p, decReset s)
    | .error f => .fault f
  else .next (.err .checksum, decReset (raise .framingChecksum (.byte s.dec.acc) s))

/-! ### The byte step -/

/-- The fold done first in every byte step (R66). -/
def foldAcc (b : Byte) (s : State) : State := { s with dec := { s.dec with acc := foldByte s.dec.acc b } }

/-- The arm of a byte class (R65, R53). -/
def decArm : ByteClass → State → Host.Outcome Ret Fault Refusal
  | .sentinel, s => decSentinel s
  | .sizeShort l, s => decSizeShort l s
  | .sizeLong h, s => decSizeLong h s
  | .sizeLow l, s => decSizeLow l s
  | .command c, s => decCommand c s
  | .payload d, s => decPayload d s
  | .checksum _, s => decChecksum s

/-- `DecStep(b)` (R65, R76). -/
def decStep (b : Byte) (s : State) : Host.Outcome Ret Fault Refusal :=
  decArm (classifyByte s.dec.st b) (foldAcc b s)

/-- The dispatch of a completed frame, in the step that completed it (R65). -/
def dispatchResult (cfg : Config) : Host.Outcome Ret Fault Refusal → Host.Outcome Ret Fault Refusal
  | .next (.frame c p, s) => .next (.frame c p, dispatch cfg c p s)
  | o => o

/-- `RX(b)` (R65). While `link.up = 0` no byte is delivered (10_state.md R16): nothing happens (log entry 6). -/
def rx (cfg : Config) (b : Byte) (s : State) : Out :=
  if s.link.up then finish (dispatchResult cfg (decStep b s)) else .next s

/-- A batch of bytes: its bytes delivered one at a time in order (00_scope.md R2). -/
def rxBatch (cfg : Config) : List Byte → State → Out
  | [], s => .next s
  | b :: bs, s =>
    match rx cfg b s with
    | .next t => rxBatch cfg bs t
    | .fault f => .fault f
    | .refused r => .refused r

/-! ### Meanings (log entry 7: an internal operation by itself is its rule's pseudocode) -/

/-- DEC.SENTINEL (R67). -/
def execDecSentinel (s : State) : Out := finish (decSentinel s)

/-- DEC.SIZE_SHORT (R68). -/
def execDecSizeShort (l : BitVec 7) (s : State) : Out := finish (decSizeShort l s)

/-- DEC.SIZE_LONG (R69). -/
def execDecSizeLong (h : BitVec 7) (s : State) : Out := finish (decSizeLong h s)

/-- DEC.SIZE_LOW (R70). -/
def execDecSizeLow (l : Byte) (s : State) : Out := finish (decSizeLow l s)

/-- DEC.COMMAND (R71). -/
def execDecCommand (c : Byte) (s : State) : Out := finish (decCommand c s)

/-- DEC.PAYLOAD (R72). -/
def execDecPayload (d : Byte) (s : State) : Out := finish (decPayload d s)

/-- DEC.CHECKSUM (R73): it has no operand beyond the byte already folded into `dec.acc`. -/
def execDecChecksum (_k : Byte) (s : State) : Out := finish (decChecksum s)

/-- RX (R65). -/
def execRx (b : Byte) (s : State) : Out := rx Config.machine b s

/-- DecReset (R74). -/
def execDecReset (s : State) : Out := leave (noResult (decReset s))

/-- ITEM.SENTINEL (R46): its byte delivered. -/
def execItemSentinel (s : State) : Out := rxBatch Config.machine (itemBytes .itemSentinel) s

/-- ITEM.FRAME_SHORT (R47): its bytes delivered in order (log entry 15). -/
def execItemFrameShort (c : Byte) (p : List Byte) (k : Byte) (s : State) : Out :=
  rxBatch Config.machine (itemBytes (.itemFrameShort c p k)) s

/-- ITEM.FRAME_LONG (R48): its bytes delivered in order (log entry 15). -/
def execItemFrameLong (c : Byte) (p : List Byte) (k : Byte) (s : State) : Out :=
  rxBatch Config.machine (itemBytes (.itemFrameLong c p k)) s

end Machine
end Sys2Proof
end

