-- ==== Sys2Proof/Machine/HostPort.lean ====
section
/-! DEFINITION. The host port (43_flow_controller.md R105 to R121, 30_encoding.md R62). -/

namespace Sys2Proof
namespace Machine

/-- A refused host operation: one log event, no state change, nothing transmitted (60_exceptions.md R134). -/
def refuse (info : Info) (s : State) : Ret := (.refused, raise .refused info s)

/-- `require link.up = 1`, else refused (R105). -/
def whenUp (f : State → Ret) (s : State) : Ret := if s.link.up then f s else refuse (.reason .notConnected) s

/-- `CONNECT` (R106). -/
def connect (cfg : Config) (s : State) : Ret :=
  let s0 := { s with env := s.env.afterOpen }
  if openAnswer s then
    let s1 := linkInit (decReset s0)
    sendFrame cfg.cmdPing [] { s1 with link := { s1.link with up := true } }
  else (.failed, raise .transportOpen .none { s0 with link := { s0.link with up := false } })

/-- The result of a host operation that sends twice: `FlushFailed` if either flush failed (41_frame_encoder.md R84; log entry 9). -/
def bothResults (a b : Result) : Result := if a = .ok then b else a

/-- `ARM_ONESHOT(reg)` while the link is up (R116). -/
def armUp (cfg : Config) (reg : Registration) (s : State) : Ret :=
  let r := sendFrame cfg.cmdSetAutotrig (bytes16 cfg.order (armThreshold cfg reg))
    { s with link := { s.link with oneshot := reg } }
  if r.2.link.inRequest then (r.1, { r.2 with link := { r.2.link with delayRequest := true } })
  else
    let q := startSampling cfg r.2
    (bothResults r.1 q.1, q.2)

/-- `ARM_ONESHOT(reg)` (R116). -/
def armOneshot (cfg : Config) (reg : Registration) (s : State) : Ret := whenUp (armUp cfg reg) s

/-- `SET_FREEZE(v)` (R118). -/
def setFreeze (v : Bool) (s : State) : Ret :=
  whenUp (fun s => (.ok, { s with link := { s.link with freeze := v } })) s

/-- `SEND(c, p)` (R120): START_SAMPLING is the controller's own. -/
def hostSend (cfg : Config) (c : Byte) (p : List Byte) (s : State) : Ret :=
  whenUp (fun s => if c = cfg.cmdStartSampling then refuse (.reason .startSamplingIsOwned) s else sendFrame c p s) s

/-- `RESYNC(n)` (R121). -/
def resync (n : Nat) (s : State) : Ret := whenUp (sendSentinels n) s

/-- A reserved `host_op` code (30_encoding.md R62; log entry 14 on the link being down). -/
def reservedOp (code : BitVec 3) (s : State) : Ret := refuse (.hostOp code) s

/-! ### Meanings -/

/-- CONNECT (R106). -/
def execConnect (s : State) : Out := leave (connect Config.machine s)

/-- ARM_ONESHOT (R116). -/
def execArmOneshot (reg : Registration) (s : State) : Out := leave (armOneshot Config.machine reg s)

/-- SET_FREEZE (R118). -/
def execSetFreeze (v : Bool) (s : State) : Out := leave (setFreeze v s)

/-- SEND (R120). -/
def execSend (c : Byte) (p : List Byte) (s : State) : Out := leave (hostSend Config.machine c p s)

/-- RESYNC (R121). -/
def execResync (n : Nat) (s : State) : Out := leave (resync n s)

/-- HOST.RESERVED_5 (R62). -/
def execHostReserved5 (s : State) : Out := leave (reservedOp 5 s)

/-- HOST.RESERVED_6 (R62). -/
def execHostReserved6 (s : State) : Out := leave (reservedOp 6 s)

/-- HOST.RESERVED_7 (R62). -/
def execHostReserved7 (s : State) : Out := leave (reservedOp 7 s)

end Machine
end Sys2Proof
end

