-- ==== Sys2Proof/Machine/Commands.lean ====
section
/-! DEFINITION. The command identifiers (30_encoding.md R55; log entry 17). A host-to-device row is the emission of that
command's frame by the operation the rule names; a device-to-host row is the handling of a received frame with that
identifier. -/

namespace Sys2Proof
namespace Machine

/-! ### Host to device, sent by the controller -/

/-- CMD_PING: empty payload (43_flow_controller.md R106). -/
def execCmdPing (s : State) : Out := leave (sendFrame Config.machine.cmdPing [] s)

/-- CMD_GET_VERSION: empty payload (43_flow_controller.md R110). -/
def execCmdGetVersion (s : State) : Out := leave (sendFrame Config.machine.cmdGetVersion [] s)

/-- CMD_GET_PARAMETERS: empty payload (43_flow_controller.md R111). -/
def execCmdGetParameters (s : State) : Out := leave (sendFrame Config.machine.cmdGetParameters [] s)

/-- CMD_START_SAMPLING: sent only by StartSampling, which sets `in_request` (43_flow_controller.md R109). -/
def execCmdStartSampling (s : State) : Out := leave (startSampling Config.machine s)

/-- CMD_SET_AUTOTRIG: two bytes (43_flow_controller.md R116). -/
def execCmdSetAutotrig (threshold : U16) (s : State) : Out :=
  leave (sendFrame Config.machine.cmdSetAutotrig (bytes16 Config.machine.order threshold) s)

/-! ### Host to device, through the host operation SEND (43_flow_controller.md R120) -/

/-- CMD_GET_CONSTANTS (R120). -/
def execCmdGetConstants (p : List Byte) (s : State) : Out := leave (hostSend Config.machine Config.machine.cmdGetConstants p s)

/-- CMD_SET_TRIGGER (R120). -/
def execCmdSetTrigger (p : List Byte) (s : State) : Out := leave (hostSend Config.machine Config.machine.cmdSetTrigger p s)

/-- CMD_SET_HOLDOFF (R120). -/
def execCmdSetHoldoff (p : List Byte) (s : State) : Out := leave (hostSend Config.machine Config.machine.cmdSetHoldoff p s)

/-- CMD_SET_VREF (R120). -/
def execCmdSetVref (p : List Byte) (s : State) : Out := leave (hostSend Config.machine Config.machine.cmdSetVref p s)

/-- CMD_SET_PRESCALER (R120). -/
def execCmdSetPrescaler (p : List Byte) (s : State) : Out := leave (hostSend Config.machine Config.machine.cmdSetPrescaler p s)

/-- CMD_SET_SAMPLES (R120). -/
def execCmdSetSamples (p : List Byte) (s : State) : Out := leave (hostSend Config.machine Config.machine.cmdSetSamples p s)

/-- CMD_SET_FLAGS (R120). -/
def execCmdSetFlags (p : List Byte) (s : State) : Out := leave (hostSend Config.machine Config.machine.cmdSetFlags p s)

/-- CMD_SET_CHANNELS (R120). -/
def execCmdSetChannels (p : List Byte) (s : State) : Out := leave (hostSend Config.machine Config.machine.cmdSetChannels p s)

/-- CMD_WRITE_SCRATCHPAD (R120). -/
def execCmdWriteScratchpad (p : List Byte) (s : State) : Out := leave (hostSend Config.machine Config.machine.cmdWriteScratchpad p s)

/-- CMD_READ_SCRATCHPAD (R120). -/
def execCmdReadScratchpad (p : List Byte) (s : State) : Out := leave (hostSend Config.machine Config.machine.cmdReadScratchpad p s)

/-- CMD_SET_PWM1 (R120). -/
def execCmdSetPwm1 (p : List Byte) (s : State) : Out := leave (hostSend Config.machine Config.machine.cmdSetPwm1 p s)

/-- CMD_GET_PWM1 (R120). -/
def execCmdGetPwm1 (p : List Byte) (s : State) : Out := leave (hostSend Config.machine Config.machine.cmdGetPwm1 p s)

/-! ### Device to host: the handling of a received frame (42_command_dispatcher.md R91) -/

/-- CMD_VERSION_REPLY (R93, then R111). -/
def execCmdVersionReply (p : List Byte) (s : State) : Out := leave (noResult (versionReply Config.machine p s))

/-- CMD_BUFFER_SEG (R113). -/
def execCmdBufferSeg (p : List Byte) (s : State) : Out := leave (noResult (pBufferSeg Config.machine p s))

/-- CMD_PARAMETERS_REPLY (R92, then R112). -/
def execCmdParametersReply (p : List Byte) (s : State) : Out := leave (noResult (parametersReply Config.machine p s))

/-- CMD_CONSTANTS_REPLY (R94). -/
def execCmdConstantsReply (p : List Byte) (s : State) : Out := leave (noResult (hConstantsReply Config.machine p s))

/-- CMD_SCRATCHPAD_REPLY (R96). -/
def execCmdScratchpadReply (p : List Byte) (s : State) : Out := leave (noResult (hScratchpadReply Config.machine p s))

/-- CMD_PWM1_REPLY (R95). -/
def execCmdPwm1Reply (p : List Byte) (s : State) : Out := leave (noResult (hPwm1Reply Config.machine p s))

/-- CMD_PONG (R110): the payload is ignored. -/
def execCmdPong (_p : List Byte) (s : State) : Out := leave (noResult (pPong Config.machine s))

/-- CMD_ERROR (R97). -/
def execCmdError (p : List Byte) (s : State) : Out := leave (noResult (hError p s))

/-- CMD_<unknown> (R98): what the dispatcher does with the frame. -/
def execCmdUnknown (c : Byte) (p : List Byte) (s : State) : Out := leave (noResult (dispatch Config.machine c p s))

end Machine
end Sys2Proof
end

