-- ==== Sys2Proof/Machine/Encoder.lean ====
section
/-! DEFINITION. The Frame Encoder's operations (41_frame_encoder.md). -/

namespace Sys2Proof
namespace Machine

/-- ENC.FRAME (R81). -/
def execEncFrame (c : Byte) (p : List Byte) (s : State) : Out := leave (sendFrame c p s)

/-- ENC.SENTINEL (R86). -/
def execEncSentinel (n : Nat) (s : State) : Out := leave (sendSentinels n s)

/-- Flush (R84). -/
def execFlush (s : State) : Out := leave (flushOp s)

end Machine
end Sys2Proof
end

