-- ==== Sys2Proof/Machine/Dispatch.lean ====
section
/-! DEFINITION. One arm per operation. -/

namespace Sys2Proof
namespace Machine

/-- The meaning of every operation. -/
def exec (i : Instr) (s : State) : Host.Outcome State Fault Refusal :=
  match i with
  | .itemSentinel => Sys2Proof.Machine.execItemSentinel s
  | .itemFrameShort c p k => Sys2Proof.Machine.execItemFrameShort c p k s
  | .itemFrameLong c p k => Sys2Proof.Machine.execItemFrameLong c p k s
  | .decSentinel => Sys2Proof.Machine.execDecSentinel s
  | .decSizeShort l => Sys2Proof.Machine.execDecSizeShort l s
  | .decSizeLong h => Sys2Proof.Machine.execDecSizeLong h s
  | .decSizeLow l => Sys2Proof.Machine.execDecSizeLow l s
  | .decCommand c => Sys2Proof.Machine.execDecCommand c s
  | .decPayload d => Sys2Proof.Machine.execDecPayload d s
  | .decChecksum k => Sys2Proof.Machine.execDecChecksum k s
  | .rx b => Sys2Proof.Machine.execRx b s
  | .decReset => Sys2Proof.Machine.execDecReset s
  | .encFrame c p => Sys2Proof.Machine.execEncFrame c p s
  | .encSentinel n => Sys2Proof.Machine.execEncSentinel n s
  | .flush => Sys2Proof.Machine.execFlush s
  | .dispatch c p => Sys2Proof.Machine.execDispatch c p s
  | .hParametersReply p => Sys2Proof.Machine.execHParametersReply p s
  | .hVersionReply p => Sys2Proof.Machine.execHVersionReply p s
  | .hConstantsReply p => Sys2Proof.Machine.execHConstantsReply p s
  | .hPwm1Reply p => Sys2Proof.Machine.execHPwm1Reply p s
  | .hScratchpadReply p => Sys2Proof.Machine.execHScratchpadReply p s
  | .hError p => Sys2Proof.Machine.execHError p s
  | .hUnknown c => Sys2Proof.Machine.execHUnknown c s
  | .pPong => Sys2Proof.Machine.execPPong s
  | .pVersion => Sys2Proof.Machine.execPVersion s
  | .pParameters => Sys2Proof.Machine.execPParameters s
  | .pBufferSeg p => Sys2Proof.Machine.execPBufferSeg p s
  | .linkInit => Sys2Proof.Machine.execLinkInit s
  | .startSampling => Sys2Proof.Machine.execStartSampling s
  | .connect => Sys2Proof.Machine.execConnect s
  | .armOneshot reg => Sys2Proof.Machine.execArmOneshot reg s
  | .setFreeze v => Sys2Proof.Machine.execSetFreeze v s
  | .send c p => Sys2Proof.Machine.execSend c p s
  | .resync n => Sys2Proof.Machine.execResync n s
  | .hostReserved5 => Sys2Proof.Machine.execHostReserved5 s
  | .hostReserved6 => Sys2Proof.Machine.execHostReserved6 s
  | .hostReserved7 => Sys2Proof.Machine.execHostReserved7 s
  | .cmdPing => Sys2Proof.Machine.execCmdPing s
  | .cmdGetVersion => Sys2Proof.Machine.execCmdGetVersion s
  | .cmdGetConstants p => Sys2Proof.Machine.execCmdGetConstants p s
  | .cmdStartSampling => Sys2Proof.Machine.execCmdStartSampling s
  | .cmdSetTrigger p => Sys2Proof.Machine.execCmdSetTrigger p s
  | .cmdSetHoldoff p => Sys2Proof.Machine.execCmdSetHoldoff p s
  | .cmdSetVref p => Sys2Proof.Machine.execCmdSetVref p s
  | .cmdSetPrescaler p => Sys2Proof.Machine.execCmdSetPrescaler p s
  | .cmdGetParameters => Sys2Proof.Machine.execCmdGetParameters s
  | .cmdSetSamples p => Sys2Proof.Machine.execCmdSetSamples p s
  | .cmdSetAutotrig threshold => Sys2Proof.Machine.execCmdSetAutotrig threshold s
  | .cmdSetFlags p => Sys2Proof.Machine.execCmdSetFlags p s
  | .cmdSetChannels p => Sys2Proof.Machine.execCmdSetChannels p s
  | .cmdWriteScratchpad p => Sys2Proof.Machine.execCmdWriteScratchpad p s
  | .cmdReadScratchpad p => Sys2Proof.Machine.execCmdReadScratchpad p s
  | .cmdSetPwm1 p => Sys2Proof.Machine.execCmdSetPwm1 p s
  | .cmdGetPwm1 p => Sys2Proof.Machine.execCmdGetPwm1 p s
  | .cmdVersionReply p => Sys2Proof.Machine.execCmdVersionReply p s
  | .cmdBufferSeg p => Sys2Proof.Machine.execCmdBufferSeg p s
  | .cmdParametersReply p => Sys2Proof.Machine.execCmdParametersReply p s
  | .cmdConstantsReply p => Sys2Proof.Machine.execCmdConstantsReply p s
  | .cmdScratchpadReply p => Sys2Proof.Machine.execCmdScratchpadReply p s
  | .cmdPwm1Reply p => Sys2Proof.Machine.execCmdPwm1Reply p s
  | .cmdPong p => Sys2Proof.Machine.execCmdPong p s
  | .cmdError p => Sys2Proof.Machine.execCmdError p s
  | .cmdUnknown c p => Sys2Proof.Machine.execCmdUnknown c p s

end Machine
end Sys2Proof
end

