-- ==== Sys2Proof/Machine/Fetch.lean ====
section
/-! DEFINITION. What a step takes from the environment, and how a word of the opcode table is presented to it. -/

namespace Sys2Proof
namespace Machine

/-- The state with the environment's oldest item taken (00_scope.md R3, log entry 5). -/
def takeInput (rest : List PortItem) (s : State) : State := { s with env := { s.env with input := rest } }

/-- The delivery of received bytes that are no whole wire item: one at a time, in order (00_scope.md R2, log entry 15). A host call
is never delivered so: every code has its operation. -/
def deliver (w : PortItem) (s : State) : Out :=
  match w with
  | .byte b => rxBatch Config.machine [b] s
  | .batch bs => rxBatch Config.machine bs s
  | .host _ _ => .next s

/-- The item under which a word of the opcode table is presented, as `decodeTableWord` reads it (log entry 16). -/
def wordItem (nbits w : Nat) : PortItem :=
  if nbits ≤ 8 then
    if w < 8 then .host (BitVec.ofNat 3 w) .zero else .byte (BitVec.ofNat 8 w)
  else
    match decodeItem (wordBytes nbits w) with
    | .ok (i, _) => .batch (itemBytes i)
    | .error _ => .batch (wordBytes nbits w)

/-- The state in which an item is what the environment presents next. A host call needs nothing more; a received byte needs a
connection and the decoder at a frame boundary. -/
def present (w : PortItem) (s : State) : State :=
  match w with
  | .host _ _ => { s with env := { s.env with input := [w] } }
  | _ => { s with
      env := { s.env with input := [w] }
      link := { s.link with up := true }
      dec := { s.dec with st := .size, acc := 0, rem := 0, cmd := 0, n := 0 } }

end Machine
end Sys2Proof
end

