-- ==== Sys2Proof/Machine/Step.lean ====
section
/-! DEFINITION. One step of the engine: the operation the environment presents next is decoded and run (00_scope.md R2, R3). -/

namespace Sys2Proof
namespace Machine

/-- One step. With nothing presented the engine stays as it is: it has no timer and no work of its own (43_flow_controller.md R122,
60_exceptions.md R135; log entry 5). -/
def step (s : State) : Host.Outcome State Fault Refusal :=
  match s.env.input with
  | [] => .next s
  | w :: rest =>
    match decodePort w with
    | .ok i => exec i (takeInput rest s)
    | .error _ => deliver w (takeInput rest s)

/-- The state in which the next step runs the operation of a word of the opcode table. -/
def State.withFetchWord (s : State) (nbits w : Nat) : State := present (wordItem nbits w) s

end Machine
end Sys2Proof
end

