-- ==== Sys2Proof/Safety.lean ====
section
/-! DEFINITION. The terms in which claims are made: the invariants of the state (10_state.md section 5), what the trace says of the
wire, and what a send leaves. -/

namespace Sys2Proof
namespace Safety

open Sys2Proof.Machine

/-! ### Invariants -/

/-- The relations of 10_state.md R27, with R12 (the accumulator in `Size` and `SizeHigh`), R13 (the high part in `SizeHigh`) and R14
(the command in `Size`, `SizeHigh` and `Command`). -/
def subStateInv (d : DecState) : Prop :=
  match d.st with
  | .size => d.acc = 0 ∧ d.rem = 0 ∧ d.n = 0 ∧ d.cmd = 0
  | .sizeHigh => d.rem.toNat % 256 = 0 ∧ d.acc.toNat = 128 + d.rem.toNat / 256 ∧ d.n = 0 ∧ d.cmd = 0
  | .command => 1 ≤ d.rem.toNat ∧ d.n = 0 ∧ d.cmd = 0
  | .payload => 1 ≤ d.rem.toNat ∧ d.rem.toNat + d.n.toNat ≤ Config.maxPayload
  | .checksum => d.rem = 0 ∧ d.n.toNat ≤ Config.maxPayload

/-- The decoder's invariant. -/
def decInv (d : DecState) : Prop := Memory.wf d.buf = true ∧ subStateInv d

/-- The controller's invariant: a deferral only while a request is outstanding (10_state.md R20), and `trigger_invert` a copy of the
bit in the last parameters (10_state.md R21). -/
def linkInv (l : LinkState) : Prop :=
  (l.delayRequest = true → l.inRequest = true) ∧
    l.triggerInvert = (match l.params with
      | some ps => invertFlag Config.machine ps.flags
      | none => false)

/-- The invariant of the engine. -/
def engineInv (s : State) : Prop := decInv s.dec ∧ linkInv s.link

/-- No request is outstanding before phase `Sampling` (10_state.md R28, 70_reset_and_hazards.md R151). -/
def handshakeIdle (s : State) : Prop := s.link.phase ≠ .sampling → s.link.inRequest = false

/-- The environment does not present `ARM_ONESHOT` outside phase `Sampling` (70_reset_and_hazards.md R151). -/
def armsOnlyInSampling (s : State) : Prop :=
  ∀ reg w rest, s.env.input = w :: rest → decodePort w = .ok (.armOneshot reg) → s.link.phase = .sampling

/-- Quiescent (00_scope.md section 8). -/
def quiescent (s : State) : Prop := s.link.phase = .sampling ∧ s.link.inRequest = false

/-! ### The trace -/

/-- The bytes handed to the Byte Channel, in order (20_memory.md R30 (c)). -/
def txBytes : List Event → List Byte
  | [] => []
  | .txByte b :: es => b :: txBytes es
  | _ :: es => txBytes es

/-- The sample frames delivered to the consumer, in order. -/
def sampleFrames : List Event → List (List Byte)
  | [] => []
  | .onSampleFrame p :: es => p :: sampleFrames es
  | _ :: es => sampleFrames es

/-- The bytes known to be delivered to the peer: those before the last flush that succeeded (20_memory.md R41; log entry 18). A failed flush is the
one followed by its log event. `seen` holds the bytes so far and `known` those known delivered so far. -/
def knownDelivered (seen known : List Byte) : List Event → List Byte
  | [] => known
  | .txByte b :: es => knownDelivered (seen ++ [b]) known es
  | .txFlush :: .log .transportFlush _ :: es => knownDelivered seen known es
  | .txFlush :: es => knownDelivered seen seen es
  | _ :: es => knownDelivered seen known es

/-- The events of a flush whose draw answers `ok` (41_frame_encoder.md R84). -/
def flushEvents (ok : Bool) : List Event :=
  if ok then [.txFlush] else [.txFlush, .log .transportFlush .none]

/-- The result of a flush whose draw answers `ok` (41_frame_encoder.md R84). -/
def flushResult (ok : Bool) : Result := if ok then .ok else .flushFailed

/-- The state after a run of bytes has been emitted and flushed: the trace and the draw, nothing else. -/
def afterEmission (bs : List Byte) (s : State) : State :=
  { s with
    out := s.out ++ bs.map .txByte ++ flushEvents (flushAnswer s)
    env := s.env.afterFlush }

/-- The state after a frame has been sent (41_frame_encoder.md R81). -/
def afterFrame (c : Byte) (p : List Byte) (s : State) : State := afterEmission (frameBytes c p) s

/-! ### The decoder by itself -/

/-- How many zero bytes bring a decoder to `Size` (70_reset_and_hazards.md R149). In `SizeHigh` the counter holds `256 * h`. -/
def zerosNeeded (d : DecState) : Nat :=
  match d.st with
  | .size => 0
  | .sizeHigh => if d.rem = 0 then 1 else d.rem.toNat + 2
  | .command => d.rem.toNat + 1
  | .payload => d.rem.toNat + 1
  | .checksum => 1

/-- The results of the byte steps of a run of received bytes, and the state they leave, without the dispatch of completed frames
(40_frame_decoder.md R76, R77); `none` where a step faults. -/
def decResults : List Byte → State → Option (List Result × State)
  | [], s => some ([], s)
  | b :: bs, s =>
    match decStep b s with
    | .next (r, t) =>
      match decResults bs t with
      | some (rs, u) => some (r :: rs, u)
      | none => none
    | _ => none

end Safety
end Sys2Proof
end

