-- ==== Sys2Proof/Certificates/Slice0/Obligations.lean ====
section
/-! DEFINITION. The statements about the engine, from the numbered rules of spec/. Where a rule is marked in the spec as the spec's
own decision, the docstring says so. In every statement `result`, the value an operation returns to its caller, and `none` where it
returns nothing, is a field of the model's own (log entry 8). -/

open Sys2Proof Sys2Proof.Machine Sys2Proof.Safety

/-! ### Reset, configuration, invariants -/

/-- After hardware reset every register holds the value of the table of 10_state.md section 1. Apart from `Ping` and `Size` these
values are the spec's own decision D13. The spec leaves `dec.buf` unspecified: that its bytes are 0x00 is the model's choice (log
entry 4), and no other statement rests on it. -/
def Obligations.ResetLeavesTheListedValues : Prop :=
  State.reset.dec.st = .size ∧ State.reset.dec.acc = 0 ∧ State.reset.dec.rem = 0 ∧ State.reset.dec.cmd = 0 ∧
  State.reset.dec.n = 0 ∧ (∀ a, readByte a State.reset.dec.buf = 0x00) ∧
  State.reset.link.up = false ∧ State.reset.link.phase = .ping ∧ State.reset.link.inRequest = false ∧
  State.reset.link.freeze = false ∧ State.reset.link.delayRequest = false ∧ State.reset.link.triggerInvert = false ∧
  State.reset.link.oneshot = none ∧ State.reset.link.version = none ∧ State.reset.link.params = none ∧
  State.reset.link.constants = none ∧ State.reset.link.pwm1 = none ∧ State.reset.out = []

/-- The invariants hold after reset. -/
def Obligations.ResetSatisfiesTheInvariants : Prop := engineInv State.reset ∧ handshakeIdle State.reset

/-- From every state of the invariant (R27 with R12, R13, R14, R20, R21) a step goes on, without fault or refusal, to a state of
the invariant. -/
def Obligations.StepKeepsTheInvariant : Prop := ∀ s, engineInv s → ∃ t, step s = .next t ∧ engineInv t

/-- Where the host arms only in phase `Sampling`, no request is outstanding before phase `Sampling`, and every step keeps it so: the
START_SAMPLING of the handshake never meets an outstanding request (R28, R151). -/
def Obligations.HandshakeStaysIdle : Prop :=
  ∀ s t, handshakeIdle s → armsOnlyInSampling s → step s = .next t → handshakeIdle t

/-- The machine's configuration satisfies rule R4 and has the byte order `LE`, whatever its open parameters are (log entries 1, 2). -/
def Obligations.MachineConfigurationIsValid : Prop :=
  Config.machine.deviceIds.Nodup ∧
  (∃ i : Fin 8, ∀ j : Fin 8, Config.machine.flagInvertMask.getLsbD j = decide (j = i)) ∧
  Config.machine.autotrigArm.toNat < Config.machine.autotrigDisarm.toNat ∧ Config.machine.order = .le

/-! ### Decoding and encoding -/

/-- Under every valid configuration, what a well-formed operation is encoded as decodes to that operation. -/
def Obligations.EncodedInstructionDecodes : Prop :=
  ∀ (cfg : Config) (i : Instr) (w : Code),
    cfg.valid = true → i.wf cfg = true → encode cfg i = some w → decode cfg w = .ok i

/-- Bytes that decode as one whole wire item are that item's bytes, and the item is well formed; so no bit of a wire item is
dropped. -/
def Obligations.DecodedItemIsItsBytes : Prop :=
  ∀ (cfg : Config) (bs : List Byte) (i : Instr), decodeWire bs = .ok i → itemBytes i = bs ∧ i.wf cfg = true

/-- A few words written out from the encodings of 30_encoding.md. The rows of the table share no address space: that an 8-bit word
below 8 is a host port code with operands of zero, that any other 8-bit word is a byte received in `Size`, and that a longer word is
a wire item is the model's own choice (log entry 16). -/
def Obligations.TableWordsDecode : Prop :=
  decodeTableWord 8 0x03 = some (.send 0 []) ∧ decodeTableWord 8 0x02 = some (.setFreeze false) ∧
  decodeTableWord 8 0x83 = some (.decSizeLong 3) ∧ decodeTableWord 8 0x7F = some (.decSizeShort 127) ∧
  decodeTableWord 24 0x868701 = some (.itemFrameShort 0x87 [] 0x86) ∧
  decodeTableWord 40 0x8503048103 = some (.itemFrameShort 0x81 [0x04, 0x03] 0x85) ∧
  decodeTableWord 32 0x06870180 = some (.itemFrameLong 0x87 [] 0x06) ∧
  decodeWire [0x80, 0x00] = .error .zeroLength

/-- The byte classes of R53, by mask and match: in `Size` a byte is a sentinel, a short size or a long size by its value and bit
7; in every other sub-state every byte is of that sub-state's one class. -/
def Obligations.ByteClassesFollowTheTable : Prop :=
  ∀ b : Byte,
    (b = 0x00 → (classifyByte .size b).instr = .decSentinel) ∧
    (b ≠ 0x00 → b &&& 0x80 = 0x00 →
      ∃ l, (classifyByte .size b).instr = .decSizeShort l ∧ l.toNat = b.toNat ∧ 1 ≤ l.toNat) ∧
    (b &&& 0x80 = 0x80 → ∃ h, (classifyByte .size b).instr = .decSizeLong h ∧ b.toNat = 128 + h.toNat) ∧
    (classifyByte .sizeHigh b).instr = .decSizeLow b ∧ (classifyByte .command b).instr = .decCommand b ∧
    (classifyByte .payload b).instr = .decPayload b ∧ (classifyByte .checksum b).instr = .decChecksum b

/-! ### The step -/

/-- A step takes the environment's oldest item, decodes it and runs the operation; received bytes that are no whole wire item are
delivered one at a time in order; with nothing presented nothing happens (log entries 5, 15). -/
def Obligations.StepRunsTheDecodedOperation : Prop :=
  ∀ (s : State) (w : PortItem) (rest : List PortItem),
    (s.env.input = [] → step s = .next s) ∧
    (s.env.input = w :: rest →
      (∀ i, decodePort w = .ok i → step s = exec i { s with env := { s.env with input := rest } }) ∧
      (∀ e, decodePort w = .error e → ∃ bs, w = .batch bs ∧
        step s = rxBatch Config.machine bs { s with env := { s.env with input := rest } }))

/-- A batch of received bytes is the same as its bytes delivered one at a time in order (R2, the spec's own decision D1): one step on
the batch is as many steps as it has bytes, on the bytes. That a batch is one step is the model's own choice (log entry 15). -/
def Obligations.BatchEqualsItsBytesInOrder : Prop :=
  ∀ (s : State) (bs : List Byte) (rest : List PortItem),
    s.env.input = .batch bs :: rest →
    step s = core.run bs.length { s with env := { s.env with input := bs.map .byte ++ rest } }

/-! ### Frame Encoder -/

/-- The bytes of a frame: for payloads of 0 to 126 bytes the short form, for 127 to 32766 the long form, high part first with bit 7
set; then command, payload, and the exclusive or of every byte before. -/
def Obligations.FrameBytesHaveSizeFormAndChecksum : Prop :=
  ∀ (c : Byte) (p : List Byte),
    (p.length ≤ 126 →
      frameBytes c p = BitVec.ofNat 8 (p.length + 1) :: c :: p ++
        [(BitVec.ofNat 8 (p.length + 1) :: c :: p).foldl (· ^^^ ·) 0x00]) ∧
    (127 ≤ p.length → p.length ≤ 32766 →
      frameBytes c p = BitVec.ofNat 8 (128 + (p.length + 1) / 256) :: BitVec.ofNat 8 ((p.length + 1) % 256) :: c :: p ++
        [(BitVec.ofNat 8 (128 + (p.length + 1) / 256) :: BitVec.ofNat 8 ((p.length + 1) % 256) :: c :: p).foldl
          (· ^^^ ·) 0x00])

/-- What every frame the encoder emits satisfies: it folds to zero, its first byte is not 0x00, a first byte 0x80 is followed by a
byte of 0x80 or more, and its length is the payload's and 3 or 4. -/
def Obligations.EncodedFramesFoldToZero : Prop :=
  ∀ (c : Byte) (p : List Byte), p.length ≤ 32766 →
    (frameBytes c p).foldl (· ^^^ ·) 0x00 = 0x00 ∧
    (∃ b0 b1 bs, frameBytes c p = b0 :: b1 :: bs ∧ b0 ≠ 0x00 ∧ (b0 = 0x80 → 0x80 ≤ b1.toNat) ∧
      (b0.toNat < 128 ↔ p.length ≤ 126)) ∧
    (frameBytes c p).length = p.length + (if p.length ≤ 126 then 3 else 4)

/-- ENC.FRAME emits the frame's bytes in order and one flush, whose draw gives the result; a payload over 32766 bytes is refused with
one log event (the spec's own decisions D11, D15). Nothing else changes. -/
def Obligations.EncoderEmitsFrameAndFlushes : Prop :=
  ∀ (c : Byte) (p : List Byte) (s : State),
    (p.length ≤ 32766 →
      exec (.encFrame c p) s = .next { s with
        out := s.out ++ (frameBytes c p).map .txByte ++
          (if flushAnswer s then [.txFlush] else [.txFlush, .log .transportFlush .none])
        env := s.env.afterFlush
        result := if flushAnswer s then .ok else .flushFailed }) ∧
    (32766 < p.length →
      exec (.encFrame c p) s = .next { s with
        out := s.out ++ [.log .refused (.reason .encodeTooLong)]
        result := .refused })

/-- ENC.SENTINEL emits `n` zero bytes and one flush; Flush emits the flush alone (the spec's own decisions D15, D24). Nothing else
changes. -/
def Obligations.SentinelRunsAndFlushes : Prop :=
  ∀ (n : Nat) (s : State),
    exec (.encSentinel n) s = .next { s with
      out := s.out ++ List.replicate n (.txByte 0x00) ++
        (if flushAnswer s then [.txFlush] else [.txFlush, .log .transportFlush .none])
      env := s.env.afterFlush
      result := if flushAnswer s then .ok else .flushFailed } ∧
    exec .flush s = .next { s with
      out := s.out ++ (if flushAnswer s then [.txFlush] else [.txFlush, .log .transportFlush .none])
      env := s.env.afterFlush
      result := if flushAnswer s then .ok else .flushFailed }

/-- A flush that succeeds makes every byte transmitted before it known to be delivered; one that fails makes nothing more known
(the spec's own decision D15; what is known delivered is read from the trace by `Safety.knownDelivered`). -/
def Obligations.FlushDeliversWhatPrecedesIt : Prop :=
  ∀ s : State,
    (flushAnswer s = true → ∃ t, exec .flush s = .next t ∧
      knownDelivered [] [] t.out = txBytes s.out ∧ txBytes t.out = txBytes s.out) ∧
    (flushAnswer s = false → ∃ t, exec .flush s = .next t ∧
      knownDelivered [] [] t.out = knownDelivered [] [] s.out ∧ txBytes t.out = txBytes s.out)

/-! ### Frame Decoder -/

/-- DEC.SENTINEL resets the decoder and returns NoFrame; a received 0x00 at a frame boundary selects it, and leaves the state as it
was and emits nothing, any number of times. -/
def Obligations.SentinelKeepsTheBoundary : Prop :=
  ∀ s : State,
    exec .decSentinel s = .next { s with
      dec := { st := .size, acc := 0x00, rem := 0, cmd := 0x00, n := 0, buf := s.dec.buf }, result := .noFrame } ∧
    (s.link.up = true → decInv s.dec → s.dec.st = .size →
      (classifyByte s.dec.st 0x00).instr = .decSentinel ∧
      exec (.rx 0x00) s = .next { s with result := .noFrame } ∧
      exec .itemSentinel s = .next { s with result := .noFrame } ∧
      ∀ n, rxBatch Config.machine (List.replicate (n + 1) 0x00) s = .next { s with result := .noFrame })

/-- DecReset sets the sub-state and clears accumulator, counter, command and fill count; the buffer keeps every byte (the spec's own
decision D12). -/
def Obligations.DecResetClearsAllButTheBuffer : Prop :=
  ∀ s : State, ∃ t, exec .decReset s = .next t ∧
    t = { s with dec := t.dec, result := .none } ∧
    t.dec.st = .size ∧ t.dec.acc = 0x00 ∧ t.dec.rem = 0 ∧ t.dec.cmd = 0x00 ∧ t.dec.n = 0 ∧
    ∀ a, readByte a t.dec.buf = readByte a s.dec.buf

/-- DEC.SIZE_SHORT puts the total length, and DEC.SIZE_LONG its high part, into the counter; received at a frame boundary the byte
is also the accumulator's new value. Nothing else changes. -/
def Obligations.SizeBytesSetTheCounter : Prop :=
  (∀ (l : BitVec 7) (s : State), ∃ t, exec (.decSizeShort l) s = .next t ∧ t.dec.rem.toNat = l.toNat ∧
    t = { s with dec := { s.dec with rem := t.dec.rem, st := .command }, result := .noFrame }) ∧
  (∀ (h : BitVec 7) (s : State), ∃ t, exec (.decSizeLong h) s = .next t ∧ t.dec.rem.toNat = h.toNat * 256 ∧
    t = { s with dec := { s.dec with rem := t.dec.rem, st := .sizeHigh }, result := .noFrame }) ∧
  (∀ (b : Byte) (s : State), s.link.up = true → decInv s.dec → s.dec.st = .size → b ≠ 0x00 →
    ∃ t, exec (.rx b) s = .next t ∧ t.dec.acc = b ∧
      t.dec.rem.toNat = (if b.toNat < 128 then b.toNat else (b.toNat - 128) * 256) ∧
      t.dec.st = (if b.toNat < 128 then .command else .sizeHigh))

/-- DEC.SIZE_LOW joins the low byte to the high part; a total length of zero is the error FramingLength, which resets the decoder
(the spec's own decision D9). Nothing else changes. -/
def Obligations.LowSizeByteCompletesTheLength : Prop :=
  ∀ (l : Byte) (s : State),
    (s.dec.rem.toNat % 256 = 0 → s.dec.rem.toNat + l.toNat = 0 →
      exec (.decSizeLow l) s = .next { s with
        dec := { DecState.reset with buf := s.dec.buf }
        out := s.out ++ [.log .framingLength .none]
        result := .err .length }) ∧
    (s.dec.rem.toNat % 256 = 0 → s.dec.rem.toNat + l.toNat ≠ 0 →
      ∃ t, exec (.decSizeLow l) s = .next t ∧ t.dec.rem.toNat = s.dec.rem.toNat + l.toNat ∧
        t = { s with dec := { s.dec with rem := t.dec.rem, st := .command }, result := .noFrame }) ∧
    (∃ t, exec (.decSizeLow l) s = .next t)

/-- DEC.COMMAND takes the command byte, empties the payload and takes one from the counter; a total length of 1 goes straight to
`Checksum`. Nothing else changes. -/
def Obligations.CommandByteStartsThePayload : Prop :=
  ∀ (c : Byte) (s : State), 1 ≤ s.dec.rem.toNat →
    ∃ t, exec (.decCommand c) s = .next t ∧ t.dec.rem.toNat = s.dec.rem.toNat - 1 ∧
      t = { s with
        dec := { s.dec with
          cmd := c, n := 0, rem := t.dec.rem, st := if s.dec.rem.toNat = 1 then .checksum else .payload }
        result := .noFrame }

/-- DEC.PAYLOAD stores the byte at index `dec.n` of the buffer and nowhere else, counts it, and takes one from the counter; the last
payload byte goes to `Checksum`. Nothing else changes. -/
def Obligations.PayloadByteIsStored : Prop :=
  ∀ (d : Byte) (s : State), 1 ≤ s.dec.rem.toNat → s.dec.n.toNat < 32766 →
    ∃ t, exec (.decPayload d) s = .next t ∧
      readByte s.dec.n.toNat t.dec.buf = d ∧
      (∀ a, a ≠ s.dec.n.toNat → readByte a t.dec.buf = readByte a s.dec.buf) ∧
      (Memory.wf s.dec.buf = true → Memory.wf t.dec.buf = true) ∧
      t.dec.n.toNat = s.dec.n.toNat + 1 ∧ t.dec.rem.toNat = s.dec.rem.toNat - 1 ∧
      t = { s with
        dec := { s.dec with
          buf := t.dec.buf, n := t.dec.n, rem := t.dec.rem,
          st := if s.dec.rem.toNat = 1 then .checksum else s.dec.st }
        result := .noFrame }

/-- DEC.CHECKSUM: with the accumulator at zero it returns the frame of the command and the `dec.n` payload bytes in order; else it
reports FramingChecksum with the residue (D26 is the spec's own decision on that `info`). Either way the decoder is reset and
nothing else changes. -/
def Obligations.ChecksumByteEndsTheFrame : Prop :=
  ∀ (k : Byte) (s : State),
    (s.dec.acc = 0x00 → s.dec.n.toNat ≤ 32766 →
      ∃ p : List Byte, p.length = s.dec.n.toNat ∧ (∀ i, i < s.dec.n.toNat → p[i]? = some (readByte i s.dec.buf)) ∧
        exec (.decChecksum k) s = .next { s with
          dec := { DecState.reset with buf := s.dec.buf }, result := .frame s.dec.cmd p }) ∧
    (s.dec.acc ≠ 0x00 →
      exec (.decChecksum k) s = .next { s with
        dec := { DecState.reset with buf := s.dec.buf }
        out := s.out ++ [.log .framingChecksum (.byte s.dec.acc)]
        result := .err .checksum })

/-- The forms the model stops on, in states no run reaches: a counter of 0 taken from, an index that is no address of the buffer (the
model's choice, log entries 10, 11). -/
def Obligations.DecoderStopsOutsideItsRange : Prop :=
  ∀ (b : Byte) (s : State),
    (s.dec.rem.toNat = 0 →
      exec (.decCommand b) s = .fault .counterUnderflow ∧ exec (.decPayload b) s = .fault .counterUnderflow) ∧
    (1 ≤ s.dec.rem.toNat → 32766 ≤ s.dec.n.toNat →
      exec (.decPayload b) s = .fault (.bufferRange s.dec.n.toNat)) ∧
    (s.dec.acc = 0x00 → 32766 < s.dec.n.toNat →
      exec (.decChecksum b) s = .fault (.bufferRange 32766))

/-- RX folds the byte into the accumulator first, in every sub-state (R66), then runs the operation of the byte's class, then dispatches
the frame if one was completed, in the same step (an inference of R65, with R3 and the spec's own decision D1). That RX leaves the
byte step's result after the dispatch is the model's choice (log entry 8). -/
def Obligations.RxFoldsThenRunsTheArm : Prop :=
  ∀ (b : Byte) (s : State), s.link.up = true →
    (∀ t, exec (classifyByte s.dec.st b).instr { s with dec := { s.dec with acc := s.dec.acc ^^^ b } } = .next t →
      ((∀ c p, t.result ≠ .frame c p) → exec (.rx b) s = .next t) ∧
      (∀ c p, t.result = .frame c p → ∃ u, exec (.dispatch c p) t = .next u ∧
        exec (.rx b) s = .next { u with result := .frame c p })) ∧
    (∀ f, exec (classifyByte s.dec.st b).instr { s with dec := { s.dec with acc := s.dec.acc ^^^ b } } = .fault f →
      exec (.rx b) s = .fault f)

/-- The transition table of `dec.st` (R75), with the result of each transition; a completed frame's dispatch does not touch it. -/
def Obligations.ByteTransitionsFollowTheTable : Prop :=
  ∀ (b : Byte) (s : State), s.link.up = true → decInv s.dec →
    ∃ t, exec (.rx b) s = .next t ∧
      match s.dec.st with
      | .size => t.result = .noFrame ∧
          t.dec.st = (if b = 0x00 then .size else if b.toNat < 128 then .command else .sizeHigh)
      | .sizeHigh =>
          if s.dec.rem.toNat + b.toNat = 0 then t.dec.st = .size ∧ t.result = .err .length
          else t.dec.st = .command ∧ t.result = .noFrame
      | .command => t.result = .noFrame ∧ t.dec.st = (if s.dec.rem.toNat = 1 then .checksum else .payload)
      | .payload => t.result = .noFrame ∧ t.dec.st = (if s.dec.rem.toNat = 1 then .checksum else .payload)
      | .checksum => t.dec.st = .size ∧
          (s.dec.acc ^^^ b = 0x00 → ∃ p : List Byte, t.result = .frame s.dec.cmd p ∧ p.length = s.dec.n.toNat ∧
            ∀ i, i < s.dec.n.toNat → p[i]? = some (readByte i s.dec.buf)) ∧
          (s.dec.acc ^^^ b ≠ 0x00 → t.result = .err .checksum)

/-- The only write to the payload buffer: a received byte changes no byte of it but the one at the fill count, and that one only in
sub-state `Payload` (R31). And the bytes at and above the fill count, which the spec leaves open (R15, U23), are never seen: whatever
they are, a received byte leaves the same state but for the buffer, and the same bytes below the new fill count. -/
def Obligations.BufferIsWrittenAndReadOnlyUpToTheFillCount : Prop :=
  (∀ (b : Byte) (s t : State) (a : Nat), exec (.rx b) s = .next t →
    readByte a t.dec.buf ≠ readByte a s.dec.buf →
    s.link.up = true ∧ s.dec.st = .payload ∧ a = s.dec.n.toNat ∧ readByte a t.dec.buf = b) ∧
  (∀ (b : Byte) (s t : State) (buf : List Host.Cell), exec (.rx b) s = .next t →
    (∀ a, a < s.dec.n.toNat → readByte a buf = readByte a s.dec.buf) →
    ∃ u, exec (.rx b) { s with dec := { s.dec with buf := buf } } = .next u ∧
      u = { t with dec := { t.dec with buf := u.dec.buf } } ∧
      ∀ a, a < t.dec.n.toNat → readByte a u.dec.buf = readByte a t.dec.buf)

/-- A well-formed frame item, short or long, delivered at a frame boundary is dispatched whole: its payload stands in the buffer, the
decoder is reset, and what follows is DISPATCH of its command and payload. A long form that a short one could spell is accepted
(R58, the spec's own decision D10). -/
def Obligations.WireFrameIsDispatched : Prop :=
  ∀ (i : Instr) (c : Byte) (p : List Byte) (k : Byte) (s : State),
    i = .itemFrameShort c p k ∨ i = .itemFrameLong c p k → i.wf Config.machine = true →
    s.link.up = true → decInv s.dec → s.dec.st = .size →
    ∃ buf u, (∀ a, a < p.length → p[a]? = some (readByte a buf)) ∧
      (∀ a, p.length ≤ a → readByte a buf = readByte a s.dec.buf) ∧
      exec (.dispatch c p) { s with dec := { DecState.reset with buf := buf } } = .next u ∧
      exec i s = .next { u with result := .frame c p }

/-- Round trip (R77): the bytes of an encoded frame give NoFrame for every byte but the last and the frame for the last, and leave the
decoder at a frame boundary. -/
def Obligations.DecoderReturnsTheEncodersOperands : Prop :=
  ∀ (c : Byte) (p : List Byte) (s : State), p.length ≤ 32766 → decInv s.dec → s.dec.st = .size →
    ∃ t, decResults (frameBytes c p) s =
        some (List.replicate ((frameBytes c p).length - 1) .noFrame ++ [.frame c p], t) ∧
      t = { s with dec := t.dec } ∧ t.dec.st = .size ∧ decInv t.dec

/-- One changed byte that is no size byte is detected (R78): FramingChecksum at the frame's last byte, and the decoder is at a frame
boundary of its invariant, from which the round trip holds again. -/
def Obligations.ChangedByteIsDetected : Prop :=
  ∀ (c : Byte) (p : List Byte) (s : State) (i : Nat) (b : Byte), p.length ≤ 32766 → decInv s.dec → s.dec.st = .size →
    (if p.length ≤ 126 then 1 else 2) ≤ i → i < (frameBytes c p).length → (frameBytes c p)[i]? ≠ some b →
    ∃ t, decResults ((frameBytes c p).set i b) s =
        some (List.replicate ((frameBytes c p).length - 1) .noFrame ++ [.err .checksum], t) ∧
      t.dec.st = .size ∧ decInv t.dec ∧ t.link = s.link

/-- How many zero bytes bring the decoder to `Size` from every state (R149): exactly `zerosNeeded`, never more than 32768, and
further zeros keep it there. -/
def Obligations.ZeroRunReachesTheBoundary : Prop :=
  ∀ s : State, decInv s.dec →
    zerosNeeded s.dec ≤ 32768 ∧
    ∀ m, ∃ rs t, decResults (List.replicate m 0x00) s = some (rs, t) ∧ decInv t.dec ∧
      (t.dec.st = .size ↔ zerosNeeded s.dec ≤ m)

/-! ### Command Dispatcher -/

/-- DISPATCH runs the row its command byte names among the eight device-to-host identifiers, and the unknown row for every other
byte, whatever host-to-device identifier it may equal (R56; D30 is the spec's own decision). -/
def Obligations.DispatchRoutesByIdentifier : Prop :=
  ∀ (c : Byte) (p : List Byte) (s : State),
    (∃ t, exec (.dispatch c p) s = .next t) ∧
    exec (.dispatch c p) s = exec (decodeCommand Config.machine c p) s ∧
    (c ∉ Config.machine.deviceIds → exec (.dispatch c p) s = exec (.hUnknown c) s)

/-- H.PARAMETERS_REPLY replaces the whole record, copies the trigger-invert bit and notifies; a payload under 10 bytes is malformed
(the spec's own decision D19). The 16-bit fields are read low byte first, which the spec decides for this hardware (D5; log entry 2).
Nothing else changes. -/
def Obligations.ParametersReplyUpdatesTheCache : Prop :=
  ∀ (p : List Byte) (s : State),
    (10 ≤ p.length →
      exec (.hParametersReply p) s = .next { s with
        link := { s.link with
          params := some (decodeParams .le p)
          triggerInvert := (p.getD 6 0 &&& Config.machine.flagInvertMask) != 0x00 }
        out := s.out ++ [.onParameters (decodeParams .le p)]
        result := .ok }) ∧
    (p.length < 10 →
      exec (.hParametersReply p) s = .next { s with
        out := s.out ++ [.log .malformed (.byte Config.machine.cmdParametersReply)], result := .rejected })

/-- H.VERSION_REPLY records payload bytes 0 and 1; a payload under 2 bytes is malformed (the spec's own decisions D18, D19). Nothing
else changes. -/
def Obligations.VersionReplyIsRecorded : Prop :=
  ∀ (v0 v1 : Byte) (p : List Byte) (s : State),
    exec (.hVersionReply (v0 :: v1 :: p)) s =
      .next { s with link := { s.link with version := some (v0, v1) }, result := .ok } ∧
    (p.length < 2 →
      exec (.hVersionReply p) s = .next { s with
        out := s.out ++ [.log .malformed (.byte Config.machine.cmdVersionReply)], result := .rejected })

/-- H.CONSTANTS_REPLY caches and notifies what `DecodeConstants` gives, and is malformed where it gives nothing (the spec's own
decision D20; the function is uninterpreted). Nothing else changes. -/
def Obligations.ConstantsReplyFollowsDecodeConstants : Prop :=
  ∀ (p : List Byte) (s : State),
    exec (.hConstantsReply p) s =
      match Config.machine.decodeConstants p with
      | some (f, a, v) => .next { s with
          link := { s.link with constants := some (f, a, v) }
          out := s.out ++ [.onConstants f a v]
          result := .none }
      | none => .next { s with
          out := s.out ++ [.log .malformed (.byte Config.machine.cmdConstantsReply)], result := .none }

/-- H.PWM1_REPLY replaces the whole record and notifies; a payload under 7 bytes is malformed (the spec's own decisions D19, D21).
The 16-bit fields are read low byte first, which the spec decides for this hardware (D5; log entry 2). Nothing else changes. -/
def Obligations.Pwm1ReplyUpdatesTheCache : Prop :=
  ∀ (p : List Byte) (s : State),
    (7 ≤ p.length →
      exec (.hPwm1Reply p) s = .next { s with
        link := { s.link with pwm1 := some (decodePwm .le p) }
        out := s.out ++ [.onPwm1 (decodePwm .le p)]
        result := .none }) ∧
    (p.length < 7 →
      exec (.hPwm1Reply p) s = .next { s with
        out := s.out ++ [.log .malformed (.byte Config.machine.cmdPwm1Reply)], result := .none })

/-- H.SCRATCHPAD_REPLY and H.ERROR log and change nothing else; in particular an outstanding request stays outstanding (the spec's own
decision D22). -/
def Obligations.ScratchpadAndErrorAreLogged : Prop :=
  ∀ (p : List Byte) (s : State),
    exec (.hScratchpadReply p) s = .next { s with
      out := s.out ++ [.log .unhandled (.byte Config.machine.cmdScratchpadReply)], result := .none } ∧
    exec (.hError p) s = .next { s with out := s.out ++ [.log .deviceError (.bytes p)], result := .none }

/-- H.UNKNOWN logs the command byte; no state changes. -/
def Obligations.UnknownCommandIsLogged : Prop :=
  ∀ (c : Byte) (s : State),
    exec (.hUnknown c) s = .next { s with out := s.out ++ [.log .unknownCommand (.byte c)], result := .none }

/-- DecodeParams and DecodePwm read the bytes of R38 and R39 and no other, 16-bit fields low byte first under `LE` and high byte first
under `BE`. -/
def Obligations.RecordFieldsAreReadInOrder : Prop :=
  ∀ (a0 a1 a2 a3 a4 a5 a6 a7 a8 a9 : Byte) (rest : List Byte),
    (∃ n t : U16, n.toNat = a4.toNat + 256 * a5.toNat ∧ t.toNat = a8.toNat + 256 * a9.toNat ∧
      decodeParams .le (a0 :: a1 :: a2 :: a3 :: a4 :: a5 :: a6 :: a7 :: a8 :: a9 :: rest) =
        ⟨a0, a1, a2, a3, n, a6, a7, t⟩) ∧
    (∃ n t : U16, n.toNat = 256 * a4.toNat + a5.toNat ∧ t.toNat = 256 * a8.toNat + a9.toNat ∧
      decodeParams .be (a0 :: a1 :: a2 :: a3 :: a4 :: a5 :: a6 :: a7 :: a8 :: a9 :: rest) =
        ⟨a0, a1, a2, a3, n, a6, a7, t⟩) ∧
    (∃ m x y : U16, m.toNat = a1.toNat + 256 * a2.toNat ∧ x.toNat = a3.toNat + 256 * a4.toNat ∧
      y.toNat = a5.toNat + 256 * a6.toNat ∧
      decodePwm .le (a0 :: a1 :: a2 :: a3 :: a4 :: a5 :: a6 :: rest) = ⟨a0, m, x, y⟩) ∧
    (∃ m x y : U16, m.toNat = 256 * a1.toNat + a2.toNat ∧ x.toNat = 256 * a3.toNat + a4.toNat ∧
      y.toNat = 256 * a5.toNat + a6.toNat ∧
      decodePwm .be (a0 :: a1 :: a2 :: a3 :: a4 :: a5 :: a6 :: rest) = ⟨a0, m, x, y⟩)

/-! ### Acquisition Flow Controller, frame driven -/

/-- P.PONG: in `Ping` it sends GET_VERSION and moves to `GettingVersion`; elsewhere it logs OutOfPhase and nothing else. -/
def Obligations.PongStartsTheHandshake : Prop :=
  ∀ s : State,
    (s.link.phase = .ping → exec .pPong s = .next
      { afterFrame Config.machine.cmdGetVersion [] s with
        link := { s.link with phase := .gettingVersion }, result := .none }) ∧
    (s.link.phase ≠ .ping → exec .pPong s = .next
      { s with out := s.out ++ [.log .outOfPhase (.byte Config.machine.cmdPong)], result := .none })

/-- P.VERSION: in `GettingVersion` it sends GET_PARAMETERS and moves to `GettingParameters`; elsewhere it logs OutOfPhase and nothing
else. The version itself is recorded by H.VERSION_REPLY before it (`VersionReplyIsRecorded`). -/
def Obligations.VersionAdvancesTheHandshake : Prop :=
  ∀ s : State,
    (s.link.phase = .gettingVersion → exec .pVersion s = .next
      { afterFrame Config.machine.cmdGetParameters [] s with
        link := { s.link with phase := .gettingParameters }, result := .none }) ∧
    (s.link.phase ≠ .gettingVersion → exec .pVersion s = .next
      { s with out := s.out ++ [.log .outOfPhase (.byte Config.machine.cmdVersionReply)], result := .none })

/-- P.PARAMETERS: in `GettingParameters` it sends START_SAMPLING, sets `in_request` and moves to `Sampling`; elsewhere nothing, and
no log. -/
def Obligations.ParametersStartSampling : Prop :=
  ∀ s : State,
    (s.link.phase = .gettingParameters → exec .pParameters s = .next
      { afterFrame Config.machine.cmdStartSampling [] s with
        link := { s.link with phase := .sampling, inRequest := true }, result := .none }) ∧
    (s.link.phase ≠ .gettingParameters → exec .pParameters s = .next { s with result := .none })

/-- P.BUFFER_SEG: the payload is delivered whole, then exactly one of three: the one-shot fires, START_SAMPLING is sent again, or the
loop stays quiescent; `delay_request` is cleared in every branch. Outside `Sampling` it logs OutOfPhase and nothing else (the spec's own
decision D29). -/
def Obligations.BufferSegTakesOneOfThreeBranches : Prop :=
  ∀ (p : List Byte) (s : State),
    (s.link.phase = .sampling →
      (∀ cb data, s.link.oneshot = some (cb, data) → s.link.delayRequest = false →
        exec (.pBufferSeg p) s = .next { s with
          link := { s.link with inRequest := false, oneshot := none, delayRequest := false }
          out := s.out ++ [.onSampleFrame p, .onOneshotComplete cb data]
          result := .none }) ∧
      (s.link.oneshot = none ∨ s.link.delayRequest = true → s.link.freeze = false →
        exec (.pBufferSeg p) s = .next
          { afterFrame Config.machine.cmdStartSampling [] { s with out := s.out ++ [.onSampleFrame p] } with
            link := { s.link with inRequest := true, delayRequest := false }, result := .none }) ∧
      (s.link.oneshot = none ∨ s.link.delayRequest = true → s.link.freeze = true →
        exec (.pBufferSeg p) s = .next { s with
          link := { s.link with inRequest := false, delayRequest := false }
          out := s.out ++ [.onSampleFrame p]
          result := .none })) ∧
    (s.link.phase ≠ .sampling →
      exec (.pBufferSeg p) s = .next
        { s with out := s.out ++ [.log .outOfPhase (.byte Config.machine.cmdBufferSeg)], result := .none })

/-- LinkInit gives LinkState and the caches their initial values and leaves `link.up`; StartSampling sends START_SAMPLING with an empty
payload and sets `in_request` whatever the flush answers (the spec's own decisions D8, D13, D15, D16). -/
def Obligations.LinkInitAndStartSampling : Prop :=
  ∀ s : State,
    exec .linkInit s = .next { s with
      link := { up := s.link.up, phase := .ping, inRequest := false, freeze := false, delayRequest := false,
                triggerInvert := false, oneshot := none, version := none, params := none, constants := none,
                pwm1 := none }
      result := .none } ∧
    exec .startSampling s = .next
      { afterFrame Config.machine.cmdStartSampling [] s with
        link := { s.link with inRequest := true }
        result := if flushAnswer s then .ok else .flushFailed }

/-! ### The host port -/

/-- CONNECT: with the channel open, from any state, the decoder and LinkState are initialised, the link is up and PING is sent; with the
open failed, the link is down, TransportOpen is logged, and nothing is sent and nothing else changes (the spec's own decisions D13,
D14, D15). -/
def Obligations.ConnectInitialisesAndSendsPing : Prop :=
  ∀ s : State,
    (openAnswer s = true → ∃ t, exec .connect s = .next t ∧
      t.dec = { DecState.reset with buf := s.dec.buf } ∧ t.link = { LinkState.reset with up := true } ∧
      t = { afterFrame Config.machine.cmdPing [] { s with env := s.env.afterOpen } with
            dec := t.dec
            link := t.link
            result := if flushAnswer { s with env := s.env.afterOpen } then .ok else .flushFailed }) ∧
    (openAnswer s = false → exec .connect s = .next { s with
      link := { s.link with up := false }
      out := s.out ++ [.log .transportOpen .none]
      env := s.env.afterOpen
      result := .failed })

/-- ARM_ONESHOT registers, sends SET_AUTOTRIG with the arming threshold for a callback and the disarming one for the null callback, low
byte first, and then defers if a request is outstanding, else sends START_SAMPLING (the spec's own decisions D5, D7, D16, D17; the
result of the two flushes is log entry 9). Nothing else changes. -/
def Obligations.ArmOneshotDefersOrSends : Prop :=
  ∀ (reg : Registration) (s : State), s.link.up = true →
    ∃ (thr : U16) (s1 : State),
      thr = (match reg with | some _ => Config.machine.autotrigArm | none => Config.machine.autotrigDisarm) ∧
      s1 = afterFrame Config.machine.cmdSetAutotrig
        [BitVec.ofNat 8 (thr.toNat % 256), BitVec.ofNat 8 (thr.toNat / 256)]
        { s with link := { s.link with oneshot := reg } } ∧
      (s.link.inRequest = true →
        exec (.armOneshot reg) s = .next { s1 with
          link := { s1.link with delayRequest := true }
          result := if flushAnswer s then .ok else .flushFailed }) ∧
      (s.link.inRequest = false →
        exec (.armOneshot reg) s = .next
          { afterFrame Config.machine.cmdStartSampling [] s1 with
            link := { s1.link with inRequest := true }
            result := if flushAnswer s ∧ flushAnswer s1 then .ok else .flushFailed })

/-- SET_FREEZE writes the flag and nothing else; nothing is sent, in either direction of the change. R118 does not say what it returns:
that it returns `Ok` is the model's choice (log entry 9). -/
def Obligations.SetFreezeWritesTheFlagOnly : Prop :=
  ∀ (v : Bool) (s : State), s.link.up = true →
    exec (.setFreeze v) s = .next { s with link := { s.link with freeze := v }, result := .ok }

/-- SEND frames what the host gives and changes no register; START_SAMPLING and a payload over 32766 bytes are refused (the spec's own
decisions D11, D23). -/
def Obligations.SendFramesWhatTheHostGives : Prop :=
  ∀ (c : Byte) (p : List Byte) (s : State), s.link.up = true →
    (c ≠ Config.machine.cmdStartSampling → p.length ≤ 32766 →
      exec (.send c p) s = .next
        { afterFrame c p s with result := if flushAnswer s then .ok else .flushFailed }) ∧
    (c ≠ Config.machine.cmdStartSampling → 32766 < p.length →
      exec (.send c p) s = .next
        { s with out := s.out ++ [.log .refused (.reason .encodeTooLong)], result := .refused }) ∧
    (c = Config.machine.cmdStartSampling →
      exec (.send c p) s = .next
        { s with out := s.out ++ [.log .refused (.reason .startSamplingIsOwned)], result := .refused })

/-- RESYNC sends its count of zero bytes and leaves the engine's own decoder as it is (the spec's own decision D24); a reserved code is
refused with one log event that carries it (D2), the link up or down (log entry 14); that it returns `Refused` is the model's choice
(log entry 9). -/
def Obligations.ResyncAndReservedCodes : Prop :=
  ∀ (n : Nat) (s : State),
    (s.link.up = true → exec (.resync n) s = .next
      { afterEmission (List.replicate n 0x00) s with result := if flushAnswer s then .ok else .flushFailed }) ∧
    exec .hostReserved5 s = .next { s with out := s.out ++ [.log .refused (.hostOp 5)], result := .refused } ∧
    exec .hostReserved6 s = .next { s with out := s.out ++ [.log .refused (.hostOp 6)], result := .refused } ∧
    exec .hostReserved7 s = .next { s with out := s.out ++ [.log .refused (.hostOp 7)], result := .refused }

/-- While the link is down every host operation but CONNECT is refused with one log event, changes no register and sends nothing (the
spec's own decision D14); that it returns `Refused` is the model's choice (log entry 9), and so is that a received byte then has no
effect (log entry 6). -/
def Obligations.HostOperationsAreRefusedWhileDown : Prop :=
  ∀ (i : Instr) (s : State), s.link.up = false →
    ((∃ reg, i = .armOneshot reg) ∨ (∃ v, i = .setFreeze v) ∨ (∃ c p, i = .send c p) ∨ (∃ n, i = .resync n) →
      exec i s = .next { s with out := s.out ++ [.log .refused (.reason .notConnected)], result := .refused }) ∧
    ((∃ b, i = .rx b) ∨ i = .itemSentinel ∨ (∃ c p k, i = .itemFrameShort c p k) ∨
        (∃ c p k, i = .itemFrameLong c p k) → exec i s = .next s)

/-! ### Command identifiers -/

/-- The frames the controller sends itself: PING, GET_VERSION, GET_PARAMETERS and START_SAMPLING with empty payloads, SET_AUTOTRIG with
the two bytes of its threshold; START_SAMPLING sets `in_request` (the spec's own decisions D4, D7, D8, D16). The threshold goes low byte first (D5; log entry 2). That a
row is the emission of its frame alone, without the phase change or the registration of the operation that sends it, is the model's
reading (log entry 17). Nothing else changes. -/
def Obligations.ControllerCommandsAreEmitted : Prop :=
  ∀ (thr : U16) (s : State),
    exec .cmdPing s = .next { afterFrame Config.machine.cmdPing [] s with
      result := if flushAnswer s then .ok else .flushFailed } ∧
    exec .cmdGetVersion s = .next { afterFrame Config.machine.cmdGetVersion [] s with
      result := if flushAnswer s then .ok else .flushFailed } ∧
    exec .cmdGetParameters s = .next { afterFrame Config.machine.cmdGetParameters [] s with
      result := if flushAnswer s then .ok else .flushFailed } ∧
    exec .cmdStartSampling s = .next { afterFrame Config.machine.cmdStartSampling [] s with
      link := { s.link with inRequest := true }, result := if flushAnswer s then .ok else .flushFailed } ∧
    exec (.cmdSetAutotrig thr) s = .next
      { afterFrame Config.machine.cmdSetAutotrig
          [BitVec.ofNat 8 (thr.toNat % 256), BitVec.ofNat 8 (thr.toNat / 256)] s with
        result := if flushAnswer s then .ok else .flushFailed }

/-- The twelve other host-to-device commands go out through SEND with the host's own payload (the spec's own decision D23). A
configuration may give one of them the identifier of START_SAMPLING (R4 does not exclude it); SEND then refuses it, so the case stands
in the conclusion. That a row is the SEND of its frame is the model's reading (log entry 17). -/
def Obligations.OpaqueCommandsGoThroughSend : Prop :=
  ∀ (i : Instr) (p : List Byte) (s : State),
    i ∈ [.cmdGetConstants p, .cmdSetTrigger p, .cmdSetHoldoff p, .cmdSetVref p, .cmdSetPrescaler p, .cmdSetSamples p,
      .cmdSetFlags p, .cmdSetChannels p, .cmdWriteScratchpad p, .cmdReadScratchpad p, .cmdSetPwm1 p, .cmdGetPwm1 p] →
    s.link.up = true → p.length ≤ 32766 →
    ∃ c, sentFrame Config.machine i = some (c, p) ∧
      exec i s = .next
        (if c = Config.machine.cmdStartSampling then
          { s with out := s.out ++ [.log .refused (.reason .startSamplingIsOwned)], result := .refused }
        else { afterFrame c p s with result := if flushAnswer s then .ok else .flushFailed })

/-- A received frame of each device-to-host identifier runs its handlers: the global one, the phase one, or the global one and then, if
it accepted, the phase one (the spec's own decisions D18, D25). That a row is the handling of a received frame with its identifier is the
model's reading (log entry 17). -/
def Obligations.ReceivedCommandsRunTheirHandlers : Prop :=
  ∀ (c : Byte) (p : List Byte) (s : State),
    (2 ≤ p.length → ∃ t u, exec (.hVersionReply p) s = .next t ∧ t.result = .ok ∧ exec .pVersion t = .next u ∧
      exec (.cmdVersionReply p) s = .next u) ∧
    (p.length < 2 → ∃ t, exec (.hVersionReply p) s = .next t ∧
      exec (.cmdVersionReply p) s = .next { t with result := .none }) ∧
    (10 ≤ p.length → ∃ t u, exec (.hParametersReply p) s = .next t ∧ t.result = .ok ∧ exec .pParameters t = .next u ∧
      exec (.cmdParametersReply p) s = .next u) ∧
    (p.length < 10 → ∃ t, exec (.hParametersReply p) s = .next t ∧
      exec (.cmdParametersReply p) s = .next { t with result := .none }) ∧
    (∃ t, exec .pPong s = .next t ∧ exec (.cmdPong p) s = .next t) ∧
    (∃ t, exec (.pBufferSeg p) s = .next t ∧ exec (.cmdBufferSeg p) s = .next t) ∧
    (∃ t, exec (.hConstantsReply p) s = .next t ∧ exec (.cmdConstantsReply p) s = .next t) ∧
    (∃ t, exec (.hPwm1Reply p) s = .next t ∧ exec (.cmdPwm1Reply p) s = .next t) ∧
    (∃ t, exec (.hScratchpadReply p) s = .next t ∧ exec (.cmdScratchpadReply p) s = .next t) ∧
    (∃ t, exec (.hError p) s = .next t ∧ exec (.cmdError p) s = .next t) ∧
    (c ∉ Config.machine.deviceIds → ∃ t, exec (.hUnknown c) s = .next t ∧ exec (.cmdUnknown c p) s = .next t)

/-- A command that arrives in a phase that does not expect it is logged and ignored: PONG outside `Ping`, VERSION_REPLY outside
`GettingVersion` after its version has been recorded, BUFFER_SEG outside `Sampling`; a PARAMETERS_REPLY outside `GettingParameters` logs
nothing. The recorded pair is the spec's own decision D18, the fields of the parameters are read low byte first (D5; log entry 2), and
that a row is the handling of a received frame with its identifier is the model's reading (log entry 17). -/
def Obligations.OutOfPhaseIsLoggedAndIgnored : Prop :=
  ∀ (v0 v1 : Byte) (p : List Byte) (s : State),
    (s.link.phase ≠ .ping → exec (.cmdPong p) s = .next
      { s with out := s.out ++ [.log .outOfPhase (.byte Config.machine.cmdPong)], result := .none }) ∧
    (s.link.phase ≠ .gettingVersion → exec (.cmdVersionReply (v0 :: v1 :: p)) s = .next
      { s with
        link := { s.link with version := some (v0, v1) }
        out := s.out ++ [.log .outOfPhase (.byte Config.machine.cmdVersionReply)]
        result := .none }) ∧
    (s.link.phase ≠ .sampling → exec (.cmdBufferSeg p) s = .next
      { s with out := s.out ++ [.log .outOfPhase (.byte Config.machine.cmdBufferSeg)], result := .none }) ∧
    (s.link.phase ≠ .gettingParameters → 10 ≤ p.length → ∃ t, exec (.hParametersReply p) s = .next t ∧
      exec (.cmdParametersReply p) s = .next { t with result := .none } ∧
      t.out = s.out ++ [.onParameters (decodeParams .le p)])

/-! ### Whole-machine rules -/

/-- The trace only grows. -/
def Obligations.TraceOnlyGrows : Prop :=
  ∀ s t, step s = .next t → ∃ es, t.out = s.out ++ es

/-- The transition table of `link.phase` (R107): a received byte moves it only by completing the frame the phase expects; no host
operation but CONNECT moves it. -/
def Obligations.PhaseMovesOnlyByTheTable : Prop :=
  ∀ s t : State,
    (∀ b, exec (.rx b) s = .next t →
      t.link.phase = s.link.phase ∨
      (∃ p, t.result = .frame Config.machine.cmdPong p ∧ s.link.phase = .ping ∧
        t.link.phase = .gettingVersion) ∨
      (∃ p, t.result = .frame Config.machine.cmdVersionReply p ∧ 2 ≤ p.length ∧ s.link.phase = .gettingVersion ∧
        t.link.phase = .gettingParameters) ∨
      (∃ p, t.result = .frame Config.machine.cmdParametersReply p ∧ 10 ≤ p.length ∧
        s.link.phase = .gettingParameters ∧ t.link.phase = .sampling)) ∧
    (∀ code o, code ≠ 0 → exec (decodeHost code o) s = .next t → t.link.phase = s.link.phase)

/-- `link.up` has one writer, CONNECT, and `link.freeze` has SET_FREEZE beside the initialisations: no other operation changes them,
whatever the peer sends. -/
def Obligations.UpAndFreezeHaveOneWriter : Prop :=
  ∀ (i : Instr) (s t : State), exec i s = .next t → i ≠ .connect →
    t.link.up = s.link.up ∧
    (i ≠ .linkInit → (∀ v, i ≠ .setFreeze v) → t.link.freeze = s.link.freeze)

/-- While a request is outstanding in phase `Sampling` no further one is sent before a sample frame has been delivered: a received byte
that delivers none transmits nothing and leaves the request outstanding, one that delivers a frame sends at most one request, an arm
sends SET_AUTOTRIG only and defers, and no freeze, SEND, RESYNC or reserved code sends a request or takes the outstanding one back (R28,
R114, R116 to R122; the spec's own decisions D7, D17, D24). It is per connection: CONNECT alone is left out, which forgets the request
(R28). The threshold goes low byte first (D5; log entry 2). -/
def Obligations.OutstandingRequestBlocksTheNext : Prop :=
  ∀ s t : State, s.link.phase = .sampling → s.link.inRequest = true →
    (∀ b, exec (.rx b) s = .next t →
      (sampleFrames t.out = sampleFrames s.out ∧ txBytes t.out = txBytes s.out ∧ t.link.inRequest = true) ∨
      (∃ p, sampleFrames t.out = sampleFrames s.out ++ [p] ∧
        ((txBytes t.out = txBytes s.out ∧ t.link.inRequest = false) ∨
          (txBytes t.out = txBytes s.out ++ frameBytes Config.machine.cmdStartSampling [] ∧
            t.link.inRequest = true)))) ∧
    (∀ reg, s.link.up = true → exec (.armOneshot reg) s = .next t →
      txBytes t.out = txBytes s.out ++ frameBytes Config.machine.cmdSetAutotrig
        (bytes16 .le (match reg with | some _ => Config.machine.autotrigArm | none => Config.machine.autotrigDisarm)) ∧
      t.link.inRequest = true ∧ t.link.delayRequest = true) ∧
    (∀ v, exec (.setFreeze v) s = .next t → txBytes t.out = txBytes s.out ∧ t.link.inRequest = true) ∧
    (∀ c p, exec (.send c p) s = .next t →
      (txBytes t.out = txBytes s.out ∨
        (c ≠ Config.machine.cmdStartSampling ∧ txBytes t.out = txBytes s.out ++ frameBytes c p)) ∧
      t.link.inRequest = true) ∧
    (∀ n, exec (.resync n) s = .next t →
      (txBytes t.out = txBytes s.out ∨ txBytes t.out = txBytes s.out ++ List.replicate n 0x00) ∧
      t.link.inRequest = true) ∧
    (∀ i : Instr, i ∈ [.hostReserved5, .hostReserved6, .hostReserved7] → exec i s = .next t →
      txBytes t.out = txBytes s.out ∧ t.link.inRequest = true)

/-- A one-shot armed while a request is in flight: not frozen, the frame in flight is answered with the deferred request and the one
after it fires the callback, once; frozen, the deferred request is dropped and the one-shot stays armed with no request (R113, R152;
the arm rule is the spec's own decision D17). -/
def Obligations.DeferredOneshotFiresOnTheNextFrame : Prop :=
  ∀ (cb data : Token) (p q : List Byte) (s : State),
    s.link.up = true → s.link.phase = .sampling → s.link.inRequest = true →
    ∃ t u, exec (.armOneshot (some (cb, data))) s = .next t ∧ exec (.pBufferSeg p) t = .next u ∧
      u.link.oneshot = some (cb, data) ∧ u.link.delayRequest = false ∧
      (s.link.freeze = true → u.out = t.out ++ [.onSampleFrame p] ∧ u.link.inRequest = false) ∧
      (s.link.freeze = false →
        txBytes u.out = txBytes t.out ++ frameBytes Config.machine.cmdStartSampling [] ∧ u.link.inRequest = true ∧
        ∃ v, exec (.pBufferSeg q) u = .next v ∧ v.out = u.out ++ [.onSampleFrame q, .onOneshotComplete cb data] ∧
          v.link.oneshot = none ∧ v.link.inRequest = false)

/-- A byte that completes no frame, a checksum or length error among them, leaves the controller, the caches and the draws exactly as
they were and emits at most one log event (R123). -/
def Obligations.ByteWithoutFrameLeavesTheController : Prop :=
  ∀ (b : Byte) (s t : State), exec (.rx b) s = .next t → (∀ c p, t.result ≠ .frame c p) →
    t.link = s.link ∧ t.env = s.env ∧ (t.out = s.out ∨ ∃ k info, t.out = s.out ++ [.log k info])
end

