-- ==== Sys2Proof/Laws/State.lean ====
section
/-! SUPPORT. One lemma per field per update of the state. -/

namespace Sys2Proof
namespace Machine

@[simp] theorem emit_dec (es : List Event) (s : State) : (emit es s).dec = s.dec := rfl
@[simp] theorem emit_link (es : List Event) (s : State) : (emit es s).link = s.link := rfl
@[simp] theorem emit_out (es : List Event) (s : State) : (emit es s).out = s.out ++ es := rfl
@[simp] theorem emit_env (es : List Event) (s : State) : (emit es s).env = s.env := rfl
@[simp] theorem emit_result (es : List Event) (s : State) : (emit es s).result = s.result := rfl

@[simp] theorem raise_dec (k : LogKind) (i : Info) (s : State) : (raise k i s).dec = s.dec := rfl
@[simp] theorem raise_link (k : LogKind) (i : Info) (s : State) : (raise k i s).link = s.link := rfl
@[simp] theorem raise_out (k : LogKind) (i : Info) (s : State) : (raise k i s).out = s.out ++ [.log k i] := rfl
@[simp] theorem raise_env (k : LogKind) (i : Info) (s : State) : (raise k i s).env = s.env := rfl
@[simp] theorem raise_result (k : LogKind) (i : Info) (s : State) : (raise k i s).result = s.result := rfl

@[simp] theorem linkInit_dec (s : State) : (linkInit s).dec = s.dec := rfl
@[simp] theorem linkInit_link (s : State) : (linkInit s).link = { LinkState.reset with up := s.link.up } := rfl
@[simp] theorem linkInit_out (s : State) : (linkInit s).out = s.out := rfl
@[simp] theorem linkInit_env (s : State) : (linkInit s).env = s.env := rfl
@[simp] theorem linkInit_result (s : State) : (linkInit s).result = s.result := rfl

@[simp] theorem decReset_dec (s : State) : (decReset s).dec = { DecState.reset with buf := s.dec.buf } := rfl
@[simp] theorem decReset_link (s : State) : (decReset s).link = s.link := rfl
@[simp] theorem decReset_out (s : State) : (decReset s).out = s.out := rfl
@[simp] theorem decReset_env (s : State) : (decReset s).env = s.env := rfl
@[simp] theorem decReset_result (s : State) : (decReset s).result = s.result := rfl

@[simp] theorem setPhase_dec (ph : Phase) (s : State) : (setPhase ph s).dec = s.dec := rfl
@[simp] theorem setPhase_link (ph : Phase) (s : State) : (setPhase ph s).link = { s.link with phase := ph } := rfl
@[simp] theorem setPhase_out (ph : Phase) (s : State) : (setPhase ph s).out = s.out := rfl
@[simp] theorem setPhase_env (ph : Phase) (s : State) : (setPhase ph s).env = s.env := rfl
@[simp] theorem setPhase_result (ph : Phase) (s : State) : (setPhase ph s).result = s.result := rfl

@[simp] theorem foldAcc_dec (b : Byte) (s : State) : (foldAcc b s).dec = { s.dec with acc := s.dec.acc ^^^ b } := rfl
@[simp] theorem foldAcc_link (b : Byte) (s : State) : (foldAcc b s).link = s.link := rfl
@[simp] theorem foldAcc_out (b : Byte) (s : State) : (foldAcc b s).out = s.out := rfl
@[simp] theorem foldAcc_env (b : Byte) (s : State) : (foldAcc b s).env = s.env := rfl
@[simp] theorem foldAcc_result (b : Byte) (s : State) : (foldAcc b s).result = s.result := rfl

@[simp] theorem takeInput_dec (rest : List PortItem) (s : State) : (takeInput rest s).dec = s.dec := rfl
@[simp] theorem takeInput_link (rest : List PortItem) (s : State) : (takeInput rest s).link = s.link := rfl
@[simp] theorem takeInput_out (rest : List PortItem) (s : State) : (takeInput rest s).out = s.out := rfl
@[simp] theorem takeInput_env (rest : List PortItem) (s : State) : (takeInput rest s).env = { s.env with input := rest } := rfl
@[simp] theorem takeInput_result (rest : List PortItem) (s : State) : (takeInput rest s).result = s.result := rfl

theorem emit_emit (es fs : List Event) (s : State) : emit fs (emit es s) = emit (es ++ fs) s := by
  simp [emit, List.append_assoc]

theorem emit_nil (s : State) : emit [] s = s := by simp [emit]

end Machine
end Sys2Proof
end

