-- ==== Sys2Proof/Laws/Configuration.lean ====
section
/-! SUPPORT. The byte order of the machine's configuration, and the bytes of a flag byte. -/

namespace Sys2Proof

/-- This hardware's byte order (20_memory.md R35). -/
@[simp] theorem Config.machine_order : Config.machine.order = .le := by
  unfold Config.machine
  split <;> rfl

end Sys2Proof
end

