-- ==== Sys2Proof/Laws/Lengths.lean ====
section
/-! SUPPORT. The size-field values as numbers. -/

namespace Sys2Proof
namespace Machine

theorem low7_toNat (b : Byte) : (low7 b).toNat = b.toNat % 128 := by
  simp [low7, BitVec.extractLsb'_toNat]

theorem msb_eq_false_iff (b : Byte) : b.msb = false ↔ b.toNat < 128 := by
  rw [BitVec.msb_eq_false_iff_two_mul_lt]; omega

theorem lenShort_toNat (l : BitVec 7) : (lenShort l).toNat = l.toNat := by
  have := l.isLt
  simp [lenShort]; omega

theorem lenHigh_toNat (h : BitVec 7) : (lenHigh h).toNat = h.toNat * 256 := by
  have := h.isLt
  simp [lenHigh, Nat.shiftLeft_eq]; omega

theorem lenJoin_toNat {r : U15} (h : r.toNat % 256 = 0) (l : Byte) :
    (lenJoin r l).toNat = r.toNat + l.toNat := by
  have := l.isLt
  have h2 : r.toNat = 2 ^ 8 * (r.toNat / 256) := by omega
  simp only [lenJoin, BitVec.toNat_or, BitVec.toNat_setWidth]
  rw [Nat.mod_eq_of_lt (by omega)]
  rw [h2, ← Nat.two_pow_add_eq_or_of_lt (by omega)]

/-- The counter taken from, where it is at least 1 (30_encoding.md R63 (d)). -/
theorem sub_one_toNat {r : U15} (h : 1 ≤ r.toNat) : (r - 1).toNat = r.toNat - 1 := by
  have := r.isLt
  rw [BitVec.toNat_sub]; simp; omega

theorem sub_one_eq_zero_iff {r : U15} (h : 1 ≤ r.toNat) : r - 1 = 0 ↔ r.toNat = 1 := by
  have hd := sub_one_toNat h
  constructor
  · intro e; rw [e] at hd; simp at hd; omega
  · intro e; apply BitVec.eq_of_toNat_eq; rw [hd, e]; rfl

/-- The fill count counted up, where it has room (30_encoding.md R63 (e)). -/
theorem add_one_toNat {n : U15} (h : n.toNat < Config.bufCap) : (n + 1).toNat = n.toNat + 1 := by
  simp only [Config.bufCap] at h
  rw [BitVec.toNat_add]; simp; omega

end Machine
end Sys2Proof
end

