-- ==== Sys2Proof/Laws/Memory.lean ====
section
/-! SUPPORT. The laws of the payload buffer: what a write changes, that it keeps the canonical form, that equal contents are equal
lists, and what a read answers. -/

namespace Sys2Proof
namespace Machine

/-! ### What each list operation reads as -/

theorem readByte_eraseByte_same (a : Nat) (m : List Host.Cell) : readByte a (eraseByte a m) = unlistedByte := by
  induction m with
  | nil => rfl
  | cons c m ih =>
    obtain ⟨x, w⟩ := c
    by_cases h : x = a
    · simpa [eraseByte, h] using ih
    · simpa [eraseByte, h, readByte] using ih

theorem readByte_eraseByte_other {a b : Nat} (h : b ≠ a) (m : List Host.Cell) :
    readByte b (eraseByte a m) = readByte b m := by
  induction m with
  | nil => rfl
  | cons c m ih =>
    obtain ⟨x, w⟩ := c
    by_cases hx : x = a
    · subst hx; simpa [eraseByte, readByte, Ne.symm h] using ih
    · simp only [eraseByte] at ih
      simp [eraseByte, hx, readByte, ih]

theorem readByte_insertByte_other {a b : Nat} (h : b ≠ a) (v : Byte) (m : List Host.Cell) :
    readByte b (insertByte a v m) = readByte b m := by
  induction m with
  | nil => simp [insertByte, readByte, Ne.symm h]
  | cons c m ih =>
    obtain ⟨x, w⟩ := c
    simp only [insertByte]
    split
    · simp [readByte, Ne.symm h]
    · simp [readByte, ih]

theorem readByte_insertByte_same {a : Nat} {m : List Host.Cell} (h : a ∉ m.map Prod.fst) (v : Byte) :
    readByte a (insertByte a v m) = v := by
  induction m with
  | nil => simp [insertByte, readByte]
  | cons c m ih =>
    obtain ⟨x, w⟩ := c
    simp only [List.map_cons, List.mem_cons, not_or] at h
    simp only [insertByte]
    split
    · simp [readByte]
    · simp [readByte, Ne.symm h.1, ih h.2]

theorem eraseByte_keys (a : Nat) (m : List Host.Cell) : a ∉ (eraseByte a m).map Prod.fst := by
  simp [eraseByte]

@[simp] theorem readByte_storeByte_same (a : Nat) (v : Byte) (m : List Host.Cell) :
    readByte a (storeByte a v m) = v := by
  unfold storeByte
  split
  · next h => rw [readByte_eraseByte_same, h]
  · exact readByte_insertByte_same (eraseByte_keys a m) v

theorem readByte_storeByte_other {a b : Nat} (h : b ≠ a) (v : Byte) (m : List Host.Cell) :
    readByte b (storeByte a v m) = readByte b m := by
  unfold storeByte
  split
  · exact readByte_eraseByte_other h m
  · rw [readByte_insertByte_other h, readByte_eraseByte_other h]

/-- What a write answers, once. -/
theorem memWrite_spec {a : Nat} {v : Byte} {m m' : List Host.Cell} (h : memWrite a v m = some m') :
    a < Config.bufCap ∧ readByte a m' = v ∧ ∀ b, b ≠ a → readByte b m' = readByte b m := by
  unfold memWrite at h
  split at h
  · next ha =>
    cases h
    exact ⟨ha, readByte_storeByte_same a v m, fun b hb => readByte_storeByte_other hb v m⟩
  · cases h

/-! ### The canonical form -/

theorem Memory.wf_iff (m : List Host.Cell) :
    Memory.wf m = true ↔
      (m.map Prod.fst).Pairwise (· < ·) ∧ ∀ c ∈ m, c.1 < Config.bufCap ∧ c.2 ≠ unlistedByte := by
  simp [Memory.wf]

theorem insertByte_mem {a : Nat} {v : Byte} {m : List Host.Cell} {c : Host.Cell} (h : c ∈ insertByte a v m) :
    c = (a, v) ∨ c ∈ m := by
  induction m with
  | nil => simpa [insertByte] using h
  | cons d m ih =>
    obtain ⟨x, w⟩ := d
    simp only [insertByte] at h
    split at h
    · simpa using h
    · rcases List.mem_cons.1 h with h | h
      · exact .inr (List.mem_cons.2 (.inl h))
      · exact (ih h).imp id (fun h => List.mem_cons.2 (.inr h))

theorem insertByte_sorted {a : Nat} {m : List Host.Cell} (v : Byte) (hs : (m.map Prod.fst).Pairwise (· < ·))
    (ha : a ∉ m.map Prod.fst) : ((insertByte a v m).map Prod.fst).Pairwise (· < ·) := by
  induction m with
  | nil => simp [insertByte]
  | cons d m ih =>
    obtain ⟨x, w⟩ := d
    simp only [List.map_cons, List.pairwise_cons] at hs
    simp only [List.map_cons, List.mem_cons, not_or] at ha
    simp only [insertByte]
    split
    · next h =>
      simp only [List.map_cons, List.pairwise_cons, List.mem_cons]
      exact ⟨fun z hz => hz.elim (fun e => e ▸ h) (fun hz => h.trans (hs.1 z hz)), hs⟩
    · simp only [List.map_cons, List.pairwise_cons]
      refine ⟨fun z hz => ?_, ih hs.2 ha.2⟩
      obtain ⟨c, hc, rfl⟩ := List.mem_map.1 hz
      rcases insertByte_mem hc with rfl | hc
      · have := ha.1; simp only; omega
      · exact hs.1 _ (List.mem_map_of_mem hc)

theorem eraseByte_wf {m : List Host.Cell} (a : Nat) (h : Memory.wf m = true) : Memory.wf (eraseByte a m) = true := by
  rw [Memory.wf_iff] at h ⊢
  exact ⟨h.1.sublist (List.filter_sublist.map Prod.fst), fun c hc => h.2 c (List.mem_of_mem_filter hc)⟩

/-- A write keeps the canonical form. -/
theorem memWrite_keeps_wf {a : Nat} {v : Byte} {m m' : List Host.Cell} (hw : Memory.wf m = true)
    (h : memWrite a v m = some m') : Memory.wf m' = true := by
  unfold memWrite at h
  split at h
  case isFalse => cases h
  case isTrue ha =>
  cases h
  have he := eraseByte_wf a hw
  unfold storeByte
  split
  · exact he
  · next hv =>
    rw [Memory.wf_iff] at he ⊢
    refine ⟨insertByte_sorted v he.1 (eraseByte_keys a m), fun c hc => ?_⟩
    rcases insertByte_mem hc with rfl | hc
    · exact ⟨ha, hv⟩
    · exact he.2 c hc

theorem readByte_unlisted {a : Nat} {m : List Host.Cell} (h : a ∉ m.map Prod.fst) : readByte a m = unlistedByte := by
  induction m with
  | nil => rfl
  | cons c m ih =>
    obtain ⟨x, w⟩ := c
    simp only [List.map_cons, List.mem_cons, not_or] at h
    simp [readByte, Ne.symm h.1, ih h.2]

theorem Memory.wf_cons {c : Host.Cell} {m : List Host.Cell} (h : Memory.wf (c :: m) = true) :
    c.2 ≠ unlistedByte ∧ (∀ a, a ≤ c.1 → a ∉ m.map Prod.fst) ∧ Memory.wf m = true := by
  simp only [Memory.wf_iff, List.map_cons, List.pairwise_cons, List.forall_mem_cons] at h
  exact ⟨h.2.1.2, fun a ha hm => absurd (h.1.1 a hm) (by omega), (Memory.wf_iff m).2 ⟨h.1.2, h.2.2⟩⟩

/-- Buffers in canonical form with the same bytes are the same list. -/
theorem Memory.wf_ext {m m' : List Host.Cell} (h : Memory.wf m = true) (h' : Memory.wf m' = true)
    (hr : ∀ a, readByte a m = readByte a m') : m = m' := by
  induction m generalizing m' with
  | nil =>
    cases m' with
    | nil => rfl
    | cons c m' =>
      have := hr c.1
      simp only [readByte, if_true] at this
      exact absurd this.symm (Memory.wf_cons h').1
  | cons c m ih =>
    obtain ⟨hc, hk, hm⟩ := Memory.wf_cons h
    cases m' with
    | nil =>
      have := hr c.1
      simp only [readByte, if_true] at this
      exact absurd this hc
    | cons d m' =>
      obtain ⟨hd, hl, hm'⟩ := Memory.wf_cons h'
      obtain ⟨x, w⟩ := c
      obtain ⟨y, v⟩ := d
      simp only at hc hk hd hl
      have hxy : x = y := by
        rcases Nat.lt_trichotomy x y with hlt | he | hlt
        · have := hr x
          simp only [readByte, if_true, show ¬ y = x by omega, if_false, readByte_unlisted (hl x (by omega))] at this
          exact absurd this hc
        · exact he
        · have := hr y
          simp only [readByte, if_true, show ¬ x = y by omega, if_false, readByte_unlisted (hk y (by omega))] at this
          exact absurd this.symm hd
      subst hxy
      have hwv : w = v := by simpa [readByte] using hr x
      subst hwv
      rw [ih hm hm' (fun a => ?_)]
      by_cases ha : x = a
      · subst ha
        rw [readByte_unlisted (hk x (by omega)), readByte_unlisted (hl x (by omega))]
      · simpa [readByte, ha] using hr a

/-! ### Reads -/

/-- What a read answers when it answers bytes: as many as asked for, each the byte at its index. -/
theorem memRead_ok {m : List Host.Cell} {a n : Nat} {p : List Byte} (h : memRead m a n = .ok p) :
    p.length = n ∧ ∀ i, i < n → p[i]? = some (readByte (a + i) m) := by
  induction n generalizing a p with
  | zero => cases h; simp
  | succ n ih =>
    simp only [memRead] at h
    split at h
    · split at h
      · next q hq =>
        cases h
        obtain ⟨h1, h2⟩ := ih hq
        refine ⟨by simp [h1], fun i hi => ?_⟩
        cases i with
        | zero => simp
        | succ j =>
          have := h2 j (by omega)
          simpa [Nat.add_assoc, Nat.add_comm 1 j] using this
      · cases h
    · cases h

/-- A read inside the buffer answers. -/
theorem memRead_inside (m : List Host.Cell) {a n : Nat} (hc : a + n ≤ Config.bufCap) : ∃ p, memRead m a n = .ok p := by
  induction n generalizing a with
  | zero => exact ⟨[], rfl⟩
  | succ n ih =>
    obtain ⟨p, hp⟩ := ih (a := a + 1) (by omega)
    exact ⟨readByte a m :: p, by simp [memRead, show a < Config.bufCap by omega, hp]⟩

/-- A read answers the same of two buffers that agree on the bytes it reads. -/
theorem memRead_congr {m m' : List Host.Cell} {a n : Nat} (h : ∀ i, i < n → readByte (a + i) m' = readByte (a + i) m) :
    memRead m' a n = memRead m a n := by
  induction n generalizing a with
  | zero => rfl
  | succ n ih =>
    have e := ih (a := a + 1) (fun i hi => by
      have := h (i + 1) (by omega)
      rwa [show a + (i + 1) = a + 1 + i by omega] at this)
    have e0 : readByte a m' = readByte a m := h 0 (by omega)
    simp only [memRead, e, e0]

end Machine
end Sys2Proof
end

