-- ==== Sys2Proof/Laws/Decoder.lean ====
section
/-! SUPPORT. What a byte step of the decoder does: one equation per arm, and the whole under the invariant. -/

namespace Sys2Proof
namespace Machine

open Sys2Proof.Safety

/-! ### One equation per arm -/

theorem decStep_sentinel {s : State} (h : s.dec.st = .size) :
    decStep 0 s = .next (.noFrame, decReset s) := by
  simp [decStep, h, classifyByte, decArm]; rfl

theorem decStep_short {b : Byte} {s : State} (h : s.dec.st = .size) (h0 : b ≠ 0) (hb : b.toNat < 128) :
    decStep b s = .next (.noFrame, { s with dec := { s.dec with
      acc := s.dec.acc ^^^ b, rem := lenShort (low7 b), st := .command } }) := by
  simp only [decStep, h, classifyByte, h0, (msb_eq_false_iff b).2 hb, if_true, if_false, decArm, decSizeShort]
  rfl

theorem decStep_long {b : Byte} {s : State} (h : s.dec.st = .size) (hb : 128 ≤ b.toNat) :
    decStep b s = .next (.noFrame, { s with dec := { s.dec with
      acc := s.dec.acc ^^^ b, rem := lenHigh (low7 b), st := .sizeHigh } }) := by
  have h0 : b ≠ 0 := by rintro rfl; simp at hb
  have hm : ¬ b.msb = false := fun e => by rw [msb_eq_false_iff] at e; omega
  simp only [decStep, h, classifyByte, h0, hm, if_false, decArm, decSizeLong]
  rfl

theorem decStep_low_zero {b : Byte} {s : State} (h : s.dec.st = .sizeHigh) (h0 : lenJoin s.dec.rem b = 0) :
    decStep b s = .next (.err .length, { s with
      dec := { DecState.reset with buf := s.dec.buf }, out := s.out ++ [.log .framingLength .none] }) := by
  simp only [decStep, h, classifyByte, decArm, decSizeLow, foldAcc_dec, h0, if_true]
  rfl

theorem decStep_low {b : Byte} {s : State} (h : s.dec.st = .sizeHigh) (h0 : lenJoin s.dec.rem b ≠ 0) :
    decStep b s = .next (.noFrame, { s with dec := { s.dec with
      acc := s.dec.acc ^^^ b, rem := lenJoin s.dec.rem b, st := .command } }) := by
  simp only [decStep, h, classifyByte, decArm, decSizeLow, foldAcc_dec, h0, if_false]
  rfl

theorem decStep_command {b : Byte} {s : State} (h : s.dec.st = .command) (h0 : s.dec.rem ≠ 0) :
    decStep b s = .next (.noFrame, { s with dec := { s.dec with
      acc := s.dec.acc ^^^ b, cmd := b, n := 0, rem := s.dec.rem - 1,
      st := if s.dec.rem - 1 = 0 then .checksum else .payload } }) := by
  simp only [decStep, h, classifyByte, decArm, decCommand, foldAcc_dec, h0, if_false]
  rfl

theorem decStep_payload {b : Byte} {s : State} (h : s.dec.st = .payload) (h0 : s.dec.rem ≠ 0)
    (hn : s.dec.n.toNat < Config.bufCap) :
    decStep b s = .next (.noFrame, { s with dec := { s.dec with
      acc := s.dec.acc ^^^ b, buf := storeByte s.dec.n.toNat b s.dec.buf, n := s.dec.n + 1, rem := s.dec.rem - 1,
      st := if s.dec.rem - 1 = 0 then .checksum else .payload } }) := by
  simp only [decStep, h, classifyByte, decArm, decPayload, foldAcc_dec, h0, if_false, memWrite, hn, if_true]
  rfl

theorem decStep_checksum_ok {b : Byte} {s : State} {p : List Byte} (h : s.dec.st = .checksum)
    (h0 : s.dec.acc ^^^ b = 0) (hp : memRead s.dec.buf 0 s.dec.n.toNat = .ok p) :
    decStep b s = .next (.frame s.dec.cmd p, { s with dec := { DecState.reset with buf := s.dec.buf } }) := by
  simp only [decStep, h, classifyByte, decArm, decChecksum, foldAcc_dec, checksumOk, h0, hp]
  rfl

theorem decStep_checksum_bad {b : Byte} {s : State} (h : s.dec.st = .checksum) (h0 : s.dec.acc ^^^ b ≠ 0) :
    decStep b s = .next (.err .checksum, { s with
      dec := { DecState.reset with buf := s.dec.buf }
      out := s.out ++ [.log .framingChecksum (.byte (s.dec.acc ^^^ b))] }) := by
  have : checksumOk (s.dec.acc ^^^ b) = false := by simpa [checksumOk] using h0
  simp only [decStep, h, classifyByte, decArm, decChecksum, foldAcc_dec, this]
  rfl

/-! ### The whole, under the invariant -/

/-- The decoder after a byte step, and the step's result, by the sub-state before it (40_frame_decoder.md R67 to R75). -/
def ByteEffect (b : Byte) (d : DecState) (r : Result) (t : DecState) : Prop :=
  match d.st with
  | .size =>
    r = .noFrame ∧ t.buf = d.buf ∧ (b = 0 → t = d) ∧
      (b ≠ 0 → t.acc = b ∧ t.n = 0 ∧ t.cmd = 0 ∧
        (b.toNat < 128 → t.st = .command ∧ t.rem.toNat = b.toNat) ∧
        (128 ≤ b.toNat → t.st = .sizeHigh ∧ t.rem.toNat = (b.toNat - 128) * 256))
  | .sizeHigh =>
    t.buf = d.buf ∧
      (d.rem.toNat + b.toNat = 0 → t = { DecState.reset with buf := d.buf } ∧ r = .err .length) ∧
      (d.rem.toNat + b.toNat ≠ 0 → r = .noFrame ∧ t.st = .command ∧ t.acc = d.acc ^^^ b ∧
        t.rem.toNat = d.rem.toNat + b.toNat ∧ t.cmd = 0 ∧ t.n = 0)
  | .command =>
    r = .noFrame ∧ t.buf = d.buf ∧ t.st = (if d.rem.toNat = 1 then .checksum else .payload) ∧ t.acc = d.acc ^^^ b ∧
      t.cmd = b ∧ t.n = 0 ∧ t.rem.toNat = d.rem.toNat - 1
  | .payload =>
    r = .noFrame ∧ t.st = (if d.rem.toNat = 1 then .checksum else .payload) ∧ t.acc = d.acc ^^^ b ∧ t.cmd = d.cmd ∧
      t.n.toNat = d.n.toNat + 1 ∧ t.rem.toNat = d.rem.toNat - 1 ∧ readByte d.n.toNat t.buf = b ∧
      ∀ a, a ≠ d.n.toNat → readByte a t.buf = readByte a d.buf
  | .checksum =>
    t = { DecState.reset with buf := d.buf } ∧
      (d.acc ^^^ b = 0 → ∃ p : List Byte, r = .frame d.cmd p ∧ p.length = d.n.toNat ∧
        ∀ i, i < d.n.toNat → p[i]? = some (readByte i d.buf)) ∧
      (d.acc ^^^ b ≠ 0 → r = .err .checksum)

theorem decInv_reset {d : DecState} (h : Memory.wf d.buf = true) :
    decInv { DecState.reset with buf := d.buf } :=
  ⟨h, by simp [subStateInv, DecState.reset]⟩

/-- A byte step under the invariant: it goes on, keeps the invariant, touches nothing but the decoder and the trace, and reports at
most one framing error. -/
theorem decStep_spec (b : Byte) (s : State) (hi : decInv s.dec) :
    ∃ r t, decStep b s = .next (r, t) ∧ decInv t.dec ∧ ByteEffect b s.dec r t.dec ∧
      t = { s with dec := t.dec, out := t.out } ∧
      (t.out = s.out ∨ ((∃ k i, t.out = s.out ++ [.log k i]) ∧ ∃ k, r = .err k)) := by
  obtain ⟨hw, hs⟩ := hi
  cases h : s.dec.st <;> simp only [subStateInv, h] at hs
  case size =>
    obtain ⟨ha, hr, hn, hc⟩ := hs
    by_cases h0 : b = 0
    · subst h0
      refine ⟨_, _, decStep_sentinel h, decInv_reset hw, ?_, rfl, .inl rfl⟩
      have : decReset s = s := by
        obtain ⟨⟨st, acc, rem, cmd, n, buf⟩, _, _, _, _⟩ := s
        simp_all [decReset]
      simp [ByteEffect, h, this]
    · have hb0 : b.toNat ≠ 0 := fun e => h0 (BitVec.eq_of_toNat_eq (by simpa using e))
      have hlt := b.isLt
      by_cases hb : b.toNat < 128
      · refine ⟨_, _, decStep_short h h0 hb, ⟨hw, ?_⟩, ?_, rfl, .inl rfl⟩
        · simp only [subStateInv, lenShort_toNat, low7_toNat]
          exact ⟨by omega, hn, hc⟩
        · simp only [ByteEffect, h, lenShort_toNat, low7_toNat]
          refine ⟨trivial, trivial, fun e => absurd e h0, fun _ => ⟨by simp [ha], hn, hc, fun _ => ⟨trivial, by omega⟩, ?_⟩⟩
          omega
      · refine ⟨_, _, decStep_long h (by omega), ⟨hw, ?_⟩, ?_, rfl, .inl rfl⟩
        · simp only [subStateInv, lenHigh_toNat, low7_toNat]
          refine ⟨by omega, ?_, hn, hc⟩
          rw [ha, show (0 : Byte) ^^^ b = b by simp]; omega
        · simp only [ByteEffect, h, lenHigh_toNat, low7_toNat]
          refine ⟨trivial, trivial, fun e => absurd e h0, fun _ => ⟨by simp [ha], hn, hc, fun e => absurd e hb, fun _ => ⟨trivial, ?_⟩⟩⟩
          omega
  case sizeHigh =>
    obtain ⟨hr, ha, hn, hc⟩ := hs
    have hj := lenJoin_toNat hr b
    by_cases h0 : s.dec.rem.toNat + b.toNat = 0
    · refine ⟨_, _, decStep_low_zero h (BitVec.eq_of_toNat_eq (by simpa using hj.trans h0)), decInv_reset hw, ?_, rfl,
        .inr ⟨⟨_, _, rfl⟩, _, rfl⟩⟩
      simp [ByteEffect, h, h0, DecState.reset]
    · refine ⟨_, _, decStep_low h (fun e => h0 (by rw [← hj, e]; rfl)), ⟨hw, ?_⟩, ?_, rfl, .inl rfl⟩
      · simp only [subStateInv, hj]
        exact ⟨by omega, hn, hc⟩
      · simp only [ByteEffect, h]
        exact ⟨trivial, fun e => absurd e h0, fun _ => ⟨trivial, trivial, trivial, hj, hc, hn⟩⟩
  case command =>
    obtain ⟨hr, hn, hc⟩ := hs
    have hlt := s.dec.rem.isLt
    refine ⟨_, _, decStep_command h (fun e => by simp [e] at hr), ⟨hw, ?_⟩, ?_, rfl, .inl rfl⟩
    · simp only [sub_one_eq_zero_iff hr]
      split
      · next e => exact ⟨(sub_one_eq_zero_iff hr).2 e, by simp [Config.maxPayload]⟩
      · next e => simp only [subStateInv, Config.maxPayload, sub_one_toNat hr]; simp; omega
    · simp only [ByteEffect, h, sub_one_toNat hr, sub_one_eq_zero_iff hr]
      simp
  case payload =>
    obtain ⟨hr, hn⟩ := hs
    simp only [Config.maxPayload] at hn
    have hcap : s.dec.n.toNat < Config.bufCap := by simp only [Config.bufCap]; omega
    have hm : memWrite s.dec.n.toNat b s.dec.buf = some (storeByte s.dec.n.toNat b s.dec.buf) := by
      simp [memWrite, hcap]
    obtain ⟨_, hm1, hm2⟩ := memWrite_spec hm
    have hn1 := add_one_toNat hcap
    refine ⟨_, _, decStep_payload h (fun e => by simp [e] at hr) hcap,
      ⟨memWrite_keeps_wf hw hm, ?_⟩, ?_, rfl, .inl rfl⟩
    · simp only [sub_one_eq_zero_iff hr]
      split
      · next e => simp only [subStateInv, Config.maxPayload, hn1]; exact ⟨(sub_one_eq_zero_iff hr).2 e, by omega⟩
      · next e => simp only [subStateInv, Config.maxPayload, sub_one_toNat hr, hn1]; omega
    · simp only [ByteEffect, h, sub_one_toNat hr, sub_one_eq_zero_iff hr, hn1]
      exact ⟨trivial, trivial, trivial, trivial, trivial, trivial, hm1, hm2⟩
  case checksum =>
    obtain ⟨hr, hn⟩ := hs
    by_cases h0 : s.dec.acc ^^^ b = 0
    · obtain ⟨p, hp⟩ := memRead_inside s.dec.buf (a := 0) (n := s.dec.n.toNat)
        (by simpa [Config.bufCap, Config.maxPayload] using hn)
      obtain ⟨hl, hg⟩ := memRead_ok hp
      refine ⟨_, _, decStep_checksum_ok h h0 hp, decInv_reset hw, ?_, rfl, .inl rfl⟩
      simp only [ByteEffect, h]
      exact ⟨trivial, fun _ => ⟨p, rfl, hl, fun i hi => by simpa using hg i hi⟩, fun e => absurd h0 e⟩
    · refine ⟨_, _, decStep_checksum_bad h h0, decInv_reset hw, ?_, rfl, .inr ⟨⟨_, _, rfl⟩, _, rfl⟩⟩
      simp only [ByteEffect, h]
      exact ⟨trivial, fun e => absurd e h0, fun _ => trivial⟩

end Machine
end Sys2Proof
end

