-- ==== Sys2Proof/Laws/Sends.lean ====
section
/-! SUPPORT. One lemma per sending operation that says all it does. -/

namespace Sys2Proof
namespace Machine

open Sys2Proof.Safety

/-- `Flush()`, once. -/
theorem flushOp_spec (s : State) : flushOp s = (flushResult (flushAnswer s), afterEmission [] s) := by
  cases h : flushAnswer s <;>
    simp [flushOp, h, flushResult, afterEmission, flushEvents, raise, emit]

@[simp] theorem flushAnswer_emit (es : List Event) (s : State) : flushAnswer (emit es s) = flushAnswer s := rfl

/-- An emission of bytes and its flush, once. -/
theorem flushOp_emit (bs : List Byte) (s : State) :
    flushOp (emit (bs.map .txByte) s) = (flushResult (flushAnswer s), afterEmission bs s) := by
  rw [flushOp_spec]
  simp [afterEmission, emit, flushAnswer]

/-- `Send(c, p)` of a payload that fits, once. -/
theorem sendFrame_spec {p : List Byte} (h : p.length ≤ Config.maxPayload) (c : Byte) (s : State) :
    sendFrame c p s = (flushResult (flushAnswer s), afterFrame c p s) := by
  rw [sendFrame, if_neg (by omega), flushOp_emit, afterFrame]

/-- `Send(c, p)` of a payload that is too long, once. -/
theorem sendFrame_tooLong {p : List Byte} (h : Config.maxPayload < p.length) (c : Byte) (s : State) :
    sendFrame c p s = (.refused, raise .refused (.reason .encodeTooLong) s) := by
  rw [sendFrame, if_pos h]

theorem sendFrame_empty (c : Byte) (s : State) :
    sendFrame c [] s = (flushResult (flushAnswer s), afterFrame c [] s) :=
  sendFrame_spec (by simp [Config.maxPayload]) c s

/-- `ENC.SENTINEL(n)`, once. -/
theorem sendSentinels_spec (n : Nat) (s : State) :
    sendSentinels n s = (flushResult (flushAnswer s), afterEmission (List.replicate n 0) s) := by
  rw [sendSentinels, ← List.map_replicate (f := Event.txByte), flushOp_emit]

/-- `StartSampling()`, once. -/
theorem startSampling_spec (cfg : Config) (s : State) :
    startSampling cfg s = (flushResult (flushAnswer s),
      { afterFrame cfg.cmdStartSampling [] s with link := { s.link with inRequest := true } }) := by
  simp only [startSampling, sendFrame_empty]
  rfl

@[simp] theorem afterEmission_dec (bs : List Byte) (s : State) : (afterEmission bs s).dec = s.dec := rfl
@[simp] theorem afterEmission_link (bs : List Byte) (s : State) : (afterEmission bs s).link = s.link := rfl
@[simp] theorem afterEmission_result (bs : List Byte) (s : State) : (afterEmission bs s).result = s.result := rfl
@[simp] theorem afterEmission_env (bs : List Byte) (s : State) : (afterEmission bs s).env = s.env.afterFlush := rfl
@[simp] theorem afterEmission_out (bs : List Byte) (s : State) :
    (afterEmission bs s).out = s.out ++ bs.map .txByte ++ flushEvents (flushAnswer s) := rfl

@[simp] theorem afterFrame_dec (c : Byte) (p : List Byte) (s : State) : (afterFrame c p s).dec = s.dec := rfl
@[simp] theorem afterFrame_link (c : Byte) (p : List Byte) (s : State) : (afterFrame c p s).link = s.link := rfl
@[simp] theorem afterFrame_result (c : Byte) (p : List Byte) (s : State) : (afterFrame c p s).result = s.result := rfl
@[simp] theorem afterFrame_env (c : Byte) (p : List Byte) (s : State) : (afterFrame c p s).env = s.env.afterFlush := rfl
@[simp] theorem afterFrame_out (c : Byte) (p : List Byte) (s : State) :
    (afterFrame c p s).out = s.out ++ (frameBytes c p).map .txByte ++ flushEvents (flushAnswer s) := rfl

/-- A draw of the flush leaves what the environment presents as it is. -/
@[simp] theorem Env.afterFlush_input (e : Env) : e.afterFlush.input = e.input := by
  unfold Env.afterFlush; split <;> rfl

@[simp] theorem Env.afterOpen_input (e : Env) : e.afterOpen.input = e.input := by
  unfold Env.afterOpen; split <;> rfl

/-- A send leaves the decoder and the controller as they are. -/
@[simp] theorem sendFrame_dec (c : Byte) (p : List Byte) (s : State) : (sendFrame c p s).2.dec = s.dec := by
  by_cases h : p.length ≤ Config.maxPayload
  · simp [sendFrame_spec h]
  · simp [sendFrame_tooLong (by omega : Config.maxPayload < p.length)]

@[simp] theorem sendFrame_link (c : Byte) (p : List Byte) (s : State) : (sendFrame c p s).2.link = s.link := by
  by_cases h : p.length ≤ Config.maxPayload
  · simp [sendFrame_spec h]
  · simp [sendFrame_tooLong (by omega : Config.maxPayload < p.length)]

end Machine
end Sys2Proof
end

