-- ==== Sys2Proof/Laws/Dispatcher.lean ====
section
/-! SUPPORT. What each handler and the dispatch of a frame can do, once. -/

namespace Sys2Proof
namespace Machine

open Sys2Proof.Safety

/-! ### The registers a handler never writes -/

/-- What no handler and no send changes: the decoder, the link bit, the freeze flag, what the environment will present, and the value
left by the operation before (42_command_dispatcher.md R91 to R98, 43_flow_controller.md R110 to R113); and the trace only grows. -/
def HandlerFrame (s t : State) : Prop :=
  t.dec = s.dec ∧ t.link.up = s.link.up ∧ t.link.freeze = s.link.freeze ∧ t.env.input = s.env.input ∧
    t.result = s.result ∧ ∃ es, t.out = s.out ++ es

theorem HandlerFrame.refl (s : State) : HandlerFrame s s := ⟨rfl, rfl, rfl, rfl, rfl, [], by simp⟩

theorem HandlerFrame.trans {s t u : State} (h : HandlerFrame s t) (k : HandlerFrame t u) : HandlerFrame s u := by
  obtain ⟨a1, a2, a3, a4, a5, es, a6⟩ := h
  obtain ⟨b1, b2, b3, b4, b5, fs, b6⟩ := k
  exact ⟨b1.trans a1, b2.trans a2, b3.trans a3, b4.trans a4, b5.trans a5, es ++ fs, by rw [b6, a6, List.append_assoc]⟩

theorem raise_handlerFrame (k : LogKind) (i : Info) (s : State) : HandlerFrame s (raise k i s) :=
  ⟨rfl, rfl, rfl, rfl, rfl, _, rfl⟩

theorem emit_handlerFrame (es : List Event) (s : State) : HandlerFrame s (emit es s) :=
  ⟨rfl, rfl, rfl, rfl, rfl, _, rfl⟩

theorem afterFrame_handlerFrame (c : Byte) (p : List Byte) (s : State) : HandlerFrame s (afterFrame c p s) :=
  ⟨rfl, rfl, rfl, by simp, rfl, _, by rw [afterFrame_out, List.append_assoc]⟩

theorem startSampling_handlerFrame (cfg : Config) (s : State) : HandlerFrame s (startSampling cfg s).2 := by
  rw [startSampling_spec]
  obtain ⟨a1, a2, a3, a4, a5, a6⟩ := afterFrame_handlerFrame cfg.cmdStartSampling [] s
  exact ⟨a1, a2, a3, a4, a5, a6⟩

theorem pPong_handlerFrame (cfg : Config) (s : State) : HandlerFrame s (pPong cfg s) := by
  unfold pPong
  split
  · rw [sendFrame_empty]; exact afterFrame_handlerFrame cfg.cmdGetVersion [] s
  · exact raise_handlerFrame _ _ _

theorem pVersion_handlerFrame (cfg : Config) (s : State) : HandlerFrame s (pVersion cfg s) := by
  unfold pVersion
  split
  · rw [sendFrame_empty]; exact afterFrame_handlerFrame cfg.cmdGetParameters [] s
  · exact raise_handlerFrame _ _ _

theorem pParameters_handlerFrame (cfg : Config) (s : State) : HandlerFrame s (pParameters cfg s) := by
  unfold pParameters
  split
  · exact startSampling_handlerFrame cfg s
  · exact .refl s

/-- The branch of P.BUFFER_SEG, by case (43_flow_controller.md R113, R115). -/
theorem bufferSegBranch_spec (cfg : Config) (s : State) :
    (∃ cb data, s.link.oneshot = some (cb, data) ∧ s.link.delayRequest = false ∧
      bufferSegBranch cfg s = { s with
        link := { s.link with inRequest := false, oneshot := none }
        out := s.out ++ [.onOneshotComplete cb data] }) ∨
    ((s.link.oneshot = none ∨ s.link.delayRequest = true) ∧ s.link.freeze = false ∧
      bufferSegBranch cfg s = (startSampling cfg s).2) ∨
    ((s.link.oneshot = none ∨ s.link.delayRequest = true) ∧ s.link.freeze = true ∧
      bufferSegBranch cfg s = { s with link := { s.link with inRequest := false } }) := by
  unfold bufferSegBranch
  split
  · next cb data h1 h2 => exact .inl ⟨cb, data, h1, h2, rfl⟩
  · next h =>
    have ho : s.link.oneshot = none ∨ s.link.delayRequest = true := by
      rcases h1 : s.link.oneshot with _ | ⟨cb, data⟩
      · exact .inl rfl
      · cases h2 : s.link.delayRequest
        · exact absurd h2 (h cb data h1)
        · exact .inr rfl
    by_cases hf : s.link.freeze = false
    · exact .inr (.inl ⟨ho, hf, by simp [hf]⟩)
    · exact .inr (.inr ⟨ho, by simpa using hf, by simp [hf]⟩)

theorem pBufferSeg_handlerFrame (cfg : Config) (p : List Byte) (s : State) : HandlerFrame s (pBufferSeg cfg p s) := by
  unfold pBufferSeg
  split
  · have h : HandlerFrame s (bufferSegBranch cfg (emit [.onSampleFrame p] s)) := by
      rcases bufferSegBranch_spec cfg (emit [.onSampleFrame p] s) with ⟨cb, data, _, _, h⟩ | ⟨_, _, h⟩ | ⟨_, _, h⟩ <;> rw [h]
      · exact ⟨rfl, rfl, rfl, rfl, rfl, _, by rw [emit_out, List.append_assoc]⟩
      · exact (emit_handlerFrame _ s).trans (startSampling_handlerFrame cfg _)
      · exact ⟨rfl, rfl, rfl, rfl, rfl, _, rfl⟩
    exact ⟨h.1, h.2.1, h.2.2.1, h.2.2.2.1, h.2.2.2.2.1, h.2.2.2.2.2⟩
  · exact raise_handlerFrame _ _ _

theorem hParametersReply_handlerFrame (cfg : Config) (p : List Byte) (s : State) :
    HandlerFrame s (hParametersReply cfg p s).2 := by
  unfold hParametersReply
  split <;> exact ⟨rfl, rfl, rfl, rfl, rfl, _, rfl⟩

theorem hVersionReply_handlerFrame (cfg : Config) (p : List Byte) (s : State) :
    HandlerFrame s (hVersionReply cfg p s).2 := by
  unfold hVersionReply
  split
  · exact raise_handlerFrame _ _ _
  · exact ⟨rfl, rfl, rfl, rfl, rfl, [], by simp⟩

theorem parametersReply_handlerFrame (cfg : Config) (p : List Byte) (s : State) :
    HandlerFrame s (parametersReply cfg p s) := by
  have h := hParametersReply_handlerFrame cfg p s
  simp only [parametersReply]
  split
  · exact h.trans (pParameters_handlerFrame cfg _)
  · exact h

theorem versionReply_handlerFrame (cfg : Config) (p : List Byte) (s : State) :
    HandlerFrame s (versionReply cfg p s) := by
  have h := hVersionReply_handlerFrame cfg p s
  simp only [versionReply]
  split
  · exact h.trans (pVersion_handlerFrame cfg _)
  · exact h

/-- What the dispatch of a frame never changes. -/
theorem dispatch_handlerFrame (cfg : Config) (c : Byte) (p : List Byte) (s : State) :
    HandlerFrame s (dispatch cfg c p s) := by
  unfold dispatch
  split_ifs
  · exact parametersReply_handlerFrame cfg p s
  · exact versionReply_handlerFrame cfg p s
  · exact pPong_handlerFrame cfg s
  · exact pBufferSeg_handlerFrame cfg p s
  · unfold hConstantsReply
    split <;> exact ⟨rfl, rfl, rfl, rfl, rfl, _, rfl⟩
  · unfold hPwm1Reply
    split <;> exact ⟨rfl, rfl, rfl, rfl, rfl, _, rfl⟩
  · exact emit_handlerFrame _ s
  · exact emit_handlerFrame _ s
  · exact raise_handlerFrame _ _ s

/-- No handler reads the decoder or the value the operation before left. -/
theorem dispatch_local (cfg : Config) (c : Byte) (p : List Byte) (s : State) (d : DecState) (x : Result) :
    dispatch cfg c p { s with dec := d, result := x } = { dispatch cfg c p s with dec := d, result := x } := by
  unfold dispatch
  split_ifs
  · by_cases h : p.length < 10
    · simp only [parametersReply, hParametersReply, h, if_true]; rfl
    · by_cases hp : s.link.phase = .gettingParameters <;>
        simp only [parametersReply, hParametersReply, h, if_false, if_true, pParameters, emit_link, hp, startSampling_spec] <;>
        rfl
  · by_cases h : p.length < 2
    · simp only [versionReply, hVersionReply, h, if_true]; rfl
    · by_cases hp : s.link.phase = .gettingVersion <;>
        simp only [versionReply, hVersionReply, h, if_false, if_true, pVersion, hp, sendFrame_empty] <;> rfl
  · by_cases hp : s.link.phase = .ping <;> simp only [pPong, hp, if_true, if_false, sendFrame_empty] <;> rfl
  · by_cases hp : s.link.phase = .sampling
    · have hb : bufferSegBranch cfg (emit [.onSampleFrame p] { s with dec := d, result := x }) =
          { bufferSegBranch cfg (emit [.onSampleFrame p] s) with dec := d, result := x } := by
        simp only [bufferSegBranch, emit_link]
        split
        · rfl
        · by_cases hf : s.link.freeze = false
          · simp only [hf, if_true, startSampling_spec]; rfl
          · simp only [hf]; rfl
      simp only [pBufferSeg, hp, if_true, hb]
    · simp only [pBufferSeg, hp, if_false]; rfl
  · unfold hConstantsReply; split <;> rfl
  · unfold hPwm1Reply; split <;> rfl
  · rfl
  · rfl
  · rfl

/-- No handler reads the value the operation before left. -/
theorem dispatch_withResult (cfg : Config) (c : Byte) (p : List Byte) (s : State) (x : Result) :
    dispatch cfg c p { s with result := x } = { dispatch cfg c p s with result := x } :=
  (dispatch_local cfg c p s s.dec x).trans (by rw [← (dispatch_handlerFrame cfg c p s).1])

/-! ### Which command a frame is -/

/-- Every command byte is one of the eight device-to-host identifiers or none of them (30_encoding.md R56). -/
theorem command_cases (cfg : Config) (c : Byte) :
    c = cfg.cmdVersionReply ∨ c = cfg.cmdBufferSeg ∨ c = cfg.cmdParametersReply ∨ c = cfg.cmdConstantsReply ∨
      c = cfg.cmdScratchpadReply ∨ c = cfg.cmdPwm1Reply ∨ c = cfg.cmdPong ∨ c = cfg.cmdError ∨ c ∉ cfg.deviceIds := by
  by_cases h : c ∈ cfg.deviceIds
  · simp only [Config.deviceIds, List.mem_cons, List.not_mem_nil, or_false] at h
    tauto
  · tauto

/-- The eight identifiers as inequalities, where they are pairwise distinct (00_scope.md R4 (a)). -/
theorem deviceIds_ne {cfg : Config} (h : cfg.deviceIds.Nodup) :
    cfg.cmdVersionReply ≠ cfg.cmdBufferSeg ∧ cfg.cmdVersionReply ≠ cfg.cmdParametersReply ∧
    cfg.cmdVersionReply ≠ cfg.cmdConstantsReply ∧ cfg.cmdVersionReply ≠ cfg.cmdScratchpadReply ∧
    cfg.cmdVersionReply ≠ cfg.cmdPwm1Reply ∧ cfg.cmdVersionReply ≠ cfg.cmdPong ∧ cfg.cmdVersionReply ≠ cfg.cmdError ∧
    cfg.cmdBufferSeg ≠ cfg.cmdParametersReply ∧ cfg.cmdBufferSeg ≠ cfg.cmdConstantsReply ∧
    cfg.cmdBufferSeg ≠ cfg.cmdScratchpadReply ∧ cfg.cmdBufferSeg ≠ cfg.cmdPwm1Reply ∧ cfg.cmdBufferSeg ≠ cfg.cmdPong ∧
    cfg.cmdBufferSeg ≠ cfg.cmdError ∧ cfg.cmdParametersReply ≠ cfg.cmdConstantsReply ∧
    cfg.cmdParametersReply ≠ cfg.cmdScratchpadReply ∧ cfg.cmdParametersReply ≠ cfg.cmdPwm1Reply ∧
    cfg.cmdParametersReply ≠ cfg.cmdPong ∧ cfg.cmdParametersReply ≠ cfg.cmdError ∧
    cfg.cmdConstantsReply ≠ cfg.cmdScratchpadReply ∧ cfg.cmdConstantsReply ≠ cfg.cmdPwm1Reply ∧
    cfg.cmdConstantsReply ≠ cfg.cmdPong ∧ cfg.cmdConstantsReply ≠ cfg.cmdError ∧
    cfg.cmdScratchpadReply ≠ cfg.cmdPwm1Reply ∧ cfg.cmdScratchpadReply ≠ cfg.cmdPong ∧
    cfg.cmdScratchpadReply ≠ cfg.cmdError ∧ cfg.cmdPwm1Reply ≠ cfg.cmdPong ∧ cfg.cmdPwm1Reply ≠ cfg.cmdError ∧
    cfg.cmdPong ≠ cfg.cmdError := by
  simp only [Config.deviceIds, List.nodup_cons, List.mem_cons, List.not_mem_nil, or_false, not_or] at h
  tauto

end Machine
end Sys2Proof
end

