-- ==== Sys2Proof/Laws/HostPort.lean ====
section
/-! SUPPORT. What each operation of the host port does, once. -/

namespace Sys2Proof
namespace Machine

open Sys2Proof.Safety

/-- `require link.up = 1`, once (43_flow_controller.md R105). -/
theorem whenUp_spec (f : State → Ret) (s : State) :
    (s.link.up = true ∧ whenUp f s = f s) ∨
      (s.link.up = false ∧ whenUp f s = (.refused, raise .refused (.reason .notConnected) s)) := by
  unfold whenUp
  cases h : s.link.up
  · exact .inr ⟨rfl, rfl⟩
  · exact .inl ⟨rfl, rfl⟩

/-- CONNECT, once (43_flow_controller.md R106). -/
theorem connect_spec (cfg : Config) (s : State) :
    connect cfg s =
      if openAnswer s then
        (flushResult (flushAnswer { s with env := s.env.afterOpen }),
          afterFrame cfg.cmdPing []
            { s with
              dec := { DecState.reset with buf := s.dec.buf }
              link := { LinkState.reset with up := true }
              env := s.env.afterOpen })
      else
        (.failed, { s with
          link := { s.link with up := false }
          out := s.out ++ [.log .transportOpen .none]
          env := s.env.afterOpen }) := by
  unfold connect
  split
  · rw [sendFrame_empty]; rfl
  · rfl

/-- ARM_ONESHOT while the link is up, once (43_flow_controller.md R116). -/
theorem armUp_spec (cfg : Config) (reg : Registration) (s : State) :
    armUp cfg reg s =
      let s1 := afterFrame cfg.cmdSetAutotrig (bytes16 cfg.order (armThreshold cfg reg))
        { s with link := { s.link with oneshot := reg } }
      if s.link.inRequest then
        (flushResult (flushAnswer s), { s1 with link := { s1.link with delayRequest := true } })
      else
        (bothResults (flushResult (flushAnswer s)) (flushResult (flushAnswer s1)),
          { afterFrame cfg.cmdStartSampling [] s1 with link := { s1.link with inRequest := true } }) := by
  have hl : (bytes16 cfg.order (armThreshold cfg reg)).length ≤ Config.maxPayload := by
    cases cfg.order <;> simp [bytes16, Config.maxPayload]
  simp only [armUp, sendFrame_spec hl, startSampling_spec, afterFrame_link]
  rfl

/-- SEND while the link is up, once (43_flow_controller.md R120). -/
theorem hostSend_spec {s : State} (h : s.link.up = true) (cfg : Config) (c : Byte) (p : List Byte) :
    hostSend cfg c p s =
      if c = cfg.cmdStartSampling then (.refused, raise .refused (.reason .startSamplingIsOwned) s)
      else if p.length ≤ Config.maxPayload then (flushResult (flushAnswer s), afterFrame c p s)
      else (.refused, raise .refused (.reason .encodeTooLong) s) := by
  simp only [hostSend, whenUp, h, if_true]
  split
  · rfl
  · split
    · next hp => rw [sendFrame_spec hp]
    · next hp => rw [sendFrame_tooLong (by omega)]

end Machine
end Sys2Proof
end

