-- ==== Sys2Proof/Laws/Delivery.lean ====
section
/-! SUPPORT. What a byte step changes in any state, what RX does with its result, and the delivery of runs of bytes. -/

namespace Sys2Proof
namespace Machine

open Sys2Proof.Safety

/-! ### The byte step in any state -/

/-- A byte step that goes on writes the decoder and at most one log event, which comes with a framing error. -/
theorem decStep_next {b : Byte} {s t : State} {r : Result} (h : decStep b s = .next (r, t)) :
    t = { s with dec := t.dec, out := t.out } ∧
      ((t.out = s.out ∧ ((∃ c p, r = .frame c p) ∨ r = .noFrame)) ∨
        (∃ k i, t.out = s.out ++ [.log k i]) ∧ ∃ k, r = .err k) := by
  unfold decStep at h
  cases hc : classifyByte s.dec.st b <;> simp only [hc, decArm] at h
  case sentinel => simp only [decSentinel] at h; cases h; exact ⟨rfl, .inl ⟨rfl, .inr rfl⟩⟩
  case sizeShort => simp only [decSizeShort] at h; cases h; exact ⟨rfl, .inl ⟨rfl, .inr rfl⟩⟩
  case sizeLong => simp only [decSizeLong] at h; cases h; exact ⟨rfl, .inl ⟨rfl, .inr rfl⟩⟩
  case sizeLow =>
    simp only [decSizeLow] at h
    split at h
    · cases h; exact ⟨rfl, .inr ⟨⟨_, _, rfl⟩, _, rfl⟩⟩
    · cases h; exact ⟨rfl, .inl ⟨rfl, .inr rfl⟩⟩
  case command =>
    simp only [decCommand] at h
    split at h
    · cases h
    · cases h; exact ⟨rfl, .inl ⟨rfl, .inr rfl⟩⟩
  case payload =>
    simp only [decPayload] at h
    split at h
    · cases h
    · split at h
      · cases h
      · cases h; exact ⟨rfl, .inl ⟨rfl, .inr rfl⟩⟩
  case checksum =>
    simp only [decChecksum] at h
    split at h
    · split at h
      · cases h; exact ⟨rfl, .inl ⟨rfl, .inl ⟨_, _, rfl⟩⟩⟩
      · cases h
    · cases h; exact ⟨rfl, .inr ⟨⟨_, _, rfl⟩, _, rfl⟩⟩

/-- No byte step refuses. -/
theorem decStep_not_refused (b : Byte) (s : State) (q : Refusal) : decStep b s ≠ .refused q := by
  unfold decStep
  cases classifyByte s.dec.st b <;>
    simp only [decArm, decSentinel, decSizeShort, decSizeLong, decSizeLow, decCommand, decPayload, decChecksum]
  all_goals (repeat' split) <;> simp

/-! ### RX -/

/-- What the dispatch makes of a byte step's result (40_frame_decoder.md R65). -/
def dispatched (cfg : Config) (r : Result) (s : State) : State :=
  match r with
  | .frame c p => dispatch cfg c p s
  | _ => s

theorem dispatched_handlerFrame (cfg : Config) (r : Result) (s : State) : HandlerFrame s (dispatched cfg r s) := by
  cases r <;> simp only [dispatched]
  case frame c p => exact dispatch_handlerFrame cfg c p s
  all_goals exact .refl s

theorem dispatchResult_next (cfg : Config) (r : Result) (s : State) :
    dispatchResult cfg (.next (r, s)) = .next (r, dispatched cfg r s) := by
  cases r <;> rfl

/-- RX of a byte step that goes on. -/
theorem rx_of_decStep {cfg : Config} {b : Byte} {s t : State} {r : Result} (hu : s.link.up = true)
    (h : decStep b s = .next (r, t)) : rx cfg b s = .next { dispatched cfg r t with result := r } := by
  simp only [rx, hu, if_true, h, dispatchResult_next, finish, leave]

/-- What RX answers when it goes on. -/
theorem rx_next {cfg : Config} {b : Byte} {s u : State} (h : rx cfg b s = .next u) :
    (s.link.up = false ∧ u = s) ∨
      (s.link.up = true ∧ ∃ r t, decStep b s = .next (r, t) ∧ u = { dispatched cfg r t with result := r }) := by
  cases hu : s.link.up
  · simp only [rx, hu, Bool.false_eq_true, if_false] at h
    cases h; exact .inl ⟨rfl, rfl⟩
  · refine .inr ⟨rfl, ?_⟩
    cases hd : decStep b s with
    | next o => obtain ⟨r, t⟩ := o; rw [rx_of_decStep hu hd] at h; cases h; exact ⟨r, t, rfl, rfl⟩
    | fault f => simp [rx, hu, hd, dispatchResult, finish] at h
    | refused q => exact absurd hd (decStep_not_refused b s q)

/-- RX under the decoder's invariant: it goes on and keeps it. -/
theorem rx_spec {cfg : Config} {s : State} (b : Byte) (hi : decInv s.dec) :
    ∃ t, rx cfg b s = .next t ∧ decInv t.dec ∧ t.link.up = s.link.up ∧ t.env.input = s.env.input := by
  cases hu : s.link.up
  · exact ⟨s, by simp [rx, hu], hi, hu, rfl⟩
  · obtain ⟨r, t, h, ht, _, e, _⟩ := decStep_spec b s hi
    obtain ⟨h1, h2, _, h4, _⟩ := dispatched_handlerFrame cfg r t
    refine ⟨_, rx_of_decStep hu h, ?_, ?_, ?_⟩
    · simpa only [h1] using ht
    · simp only [h2]; rw [e]; exact hu
    · simp only [h4]; rw [e]

/-! ### Runs of bytes -/

theorem rxBatch_append (cfg : Config) (as bs : List Byte) (s : State) :
    rxBatch cfg (as ++ bs) s =
      match rxBatch cfg as s with
      | .next t => rxBatch cfg bs t
      | .fault f => .fault f
      | .refused r => .refused r := by
  induction as generalizing s with
  | nil => rfl
  | cons a as ih =>
    simp only [List.cons_append, rxBatch]
    cases rx cfg a s <;> simp [ih]

/-- A run of bytes under the decoder's invariant. -/
theorem rxBatch_spec {cfg : Config} {s : State} (bs : List Byte) (hi : decInv s.dec) :
    ∃ t, rxBatch cfg bs s = .next t ∧ decInv t.dec ∧ t.link.up = s.link.up ∧ t.env.input = s.env.input := by
  induction bs generalizing s with
  | nil => exact ⟨s, rfl, hi, rfl, rfl⟩
  | cons b bs ih =>
    obtain ⟨t, h, h1, h2, h3⟩ := rx_spec (cfg := cfg) b hi
    obtain ⟨u, k, k1, k2, k3⟩ := ih h1
    exact ⟨u, by simp [rxBatch, h, k], k1, k2.trans h2, k3.trans h3⟩

/-- A byte step does not read the value the operation before left. -/
theorem decStep_withResult {b : Byte} {s t : State} {r : Result} (x : Result) (hd : decStep b s = .next (r, t)) :
    decStep b { s with result := x } = .next (r, { t with result := x }) := by
  unfold decStep at hd ⊢
  have he : (foldAcc b { s with result := x }) = { foldAcc b s with result := x } := rfl
  rw [he]
  generalize foldAcc b s = s' at hd
  cases hc : classifyByte s.dec.st b <;> simp only [hc, decArm] at hd ⊢
  case sentinel => simp only [decSentinel] at hd ⊢; cases hd; rfl
  case sizeShort => simp only [decSizeShort] at hd ⊢; cases hd; rfl
  case sizeLong => simp only [decSizeLong] at hd ⊢; cases hd; rfl
  case sizeLow =>
    simp only [decSizeLow] at hd ⊢
    split at hd
    · next h1 => cases hd; simp only [h1, if_true]; rfl
    · next h1 => cases hd; simp only [h1, if_false]
  case command =>
    simp only [decCommand] at hd ⊢
    split at hd
    · cases hd
    · next h1 => cases hd; simp only [h1, if_false]
  case payload =>
    simp only [decPayload] at hd ⊢
    split at hd
    · cases hd
    · next h1 =>
      split at hd
      · cases hd
      · cases hd; simp only [h1, if_false]
  case checksum =>
    simp only [decChecksum] at hd ⊢
    split at hd
    · next h1 =>
      split at hd
      · cases hd; simp only [h1, if_true]; rfl
      · cases hd
    · next h1 => cases hd; simp only [h1]; rfl

theorem decResults_withResult {bs : List Byte} {s t : State} {rs : List Result} (x : Result)
    (h : decResults bs s = some (rs, t)) :
    decResults bs { s with result := x } = some (rs, { t with result := x }) := by
  induction bs generalizing s t rs with
  | nil => simp only [decResults] at h ⊢; cases h; rfl
  | cons b bs ih =>
    simp only [decResults] at h
    cases hd : decStep b s with
    | next o =>
      simp only [hd] at h
      split at h
      · next hd1 => cases h; simp [decResults, decStep_withResult x hd, ih hd1]
      · cases h
    | fault f => simp [hd] at h
    | refused q => simp [hd] at h

/-- One more byte after a run of the decoder. -/
theorem decResults_append {as bs : List Byte} {s t : State} {rs : List Result} (h : decResults as s = some (rs, t)) :
    decResults (as ++ bs) s = (decResults bs t).map (fun q => (rs ++ q.1, q.2)) := by
  induction as generalizing s t rs with
  | nil => simp only [decResults] at h; cases h; simp
  | cons a as ih =>
    simp only [decResults] at h
    cases hd : decStep a s with
    | next o =>
      simp only [hd] at h
      split at h
      · next hd1 =>
        cases h
        simp only [List.cons_append, decResults, hd, ih hd1]
        cases decResults bs t <;> simp
      · cases h
    | fault f => simp [hd] at h
    | refused q => simp [hd] at h

/-- A run of bytes none of whose steps completes a frame dispatches nothing: it is the decoder's run. -/
theorem rxBatch_of_decResults {cfg : Config} {bs : List Byte} {s t : State} {rs : List Result} (hu : s.link.up = true)
    (h : decResults bs s = some (rs, t)) (hn : ∀ r ∈ rs, ∀ c p, r ≠ .frame c p) :
    ∃ x, rxBatch cfg bs s = .next { t with result := x } := by
  induction bs generalizing s t rs with
  | nil => simp only [decResults] at h; cases h; exact ⟨_, rfl⟩
  | cons b bs ih =>
    simp only [decResults] at h
    cases hd : decStep b s with
    | next o =>
      obtain ⟨r, t1⟩ := o
      simp only [hd] at h
      split at h
      · next rs1 u1 hd1 =>
        cases h
        have hr : dispatched cfg r t1 = t1 := by
          have := hn r (by simp)
          cases r <;> first | rfl | exact absurd rfl (this _ _)
        have hx := rx_of_decStep (cfg := cfg) hu hd
        rw [hr] at hx
        have hu1 : t1.link.up = true := by rw [(decStep_next hd).1]; exact hu
        obtain ⟨x, k⟩ := ih (s := { t1 with result := r }) hu1 (decResults_withResult r hd1)
          (fun r hr => hn r (by simp [hr]))
        exact ⟨x, by simp [rxBatch, hx, k]⟩
      · cases h
    | fault f => simp [hd] at h
    | refused q => simp [hd] at h

end Machine
end Sys2Proof
end

