-- ==== Sys2Proof/Laws/PerInstr.lean ====
section
/-! SUPPORT. A law of every operation's encoding: its encoded form is the one its row of spec/opcode_table.json has (wire item of so
many bytes, received byte of a sub-state, host port code, command byte; 30_encoding.md R45 to R62), and an internal operation has none. -/

namespace Sys2Proof
namespace Laws

/-- The form of a code, without the operands. -/
inductive Form where
  | wire (bytes : Nat)
  | received (st : SubState)
  | channel
  | host (code : BitVec 3)
  | command
deriving DecidableEq, Repr

/-- The form a code has. -/
def formOf : Code → Form
  | .wire bs => .wire bs.length
  | .received st _ => .received st
  | .channel _ => .channel
  | .host code _ => .host code
  | .command _ _ => .command

/-- The form the row of an operation gives it. -/
def rowForm : Instr → Option Form
  | .itemSentinel => some (.wire 1)
  | .itemFrameShort _ p _ => some (.wire (p.length + 3))
  | .itemFrameLong _ p _ => some (.wire (p.length + 4))
  | .decSentinel => some (.received .size)
  | .decSizeShort _ => some (.received .size)
  | .decSizeLong _ => some (.received .size)
  | .decSizeLow _ => some (.received .sizeHigh)
  | .decCommand _ => some (.received .command)
  | .decPayload _ => some (.received .payload)
  | .decChecksum _ => some (.received .checksum)
  | .rx _ => some .channel
  | .decReset => none
  | .encFrame _ _ => none
  | .encSentinel _ => none
  | .flush => none
  | .dispatch _ _ => none
  | .hParametersReply _ => none
  | .hVersionReply _ => none
  | .hConstantsReply _ => none
  | .hPwm1Reply _ => none
  | .hScratchpadReply _ => none
  | .hError _ => none
  | .hUnknown _ => none
  | .pPong => none
  | .pVersion => none
  | .pParameters => none
  | .pBufferSeg _ => none
  | .linkInit => none
  | .startSampling => none
  | .connect => some (.host 0)
  | .armOneshot _ => some (.host 1)
  | .setFreeze _ => some (.host 2)
  | .send _ _ => some (.host 3)
  | .resync _ => some (.host 4)
  | .hostReserved5 => some (.host 5)
  | .hostReserved6 => some (.host 6)
  | .hostReserved7 => some (.host 7)
  | .cmdPing => none
  | .cmdGetVersion => none
  | .cmdGetConstants _ => none
  | .cmdStartSampling => none
  | .cmdSetTrigger _ => none
  | .cmdSetHoldoff _ => none
  | .cmdSetVref _ => none
  | .cmdSetPrescaler _ => none
  | .cmdGetParameters => none
  | .cmdSetSamples _ => none
  | .cmdSetAutotrig _ => none
  | .cmdSetFlags _ => none
  | .cmdSetChannels _ => none
  | .cmdWriteScratchpad _ => none
  | .cmdReadScratchpad _ => none
  | .cmdSetPwm1 _ => none
  | .cmdGetPwm1 _ => none
  | .cmdVersionReply _ => some .command
  | .cmdBufferSeg _ => some .command
  | .cmdParametersReply _ => some .command
  | .cmdConstantsReply _ => some .command
  | .cmdScratchpadReply _ => some .command
  | .cmdPwm1Reply _ => some .command
  | .cmdPong _ => some .command
  | .cmdError _ => some .command
  | .cmdUnknown _ _ => some .command

/-- Under every configuration an operation is encoded in the form of its row. -/
def EncodingMatchesFormat.Statement (i : Instr) : Prop := ∀ cfg : Config, (encode cfg i).map formOf = rowForm i

theorem EncodingMatchesFormat.itemSentinel :
    EncodingMatchesFormat.Statement (.itemSentinel) := fun _ => rfl
theorem EncodingMatchesFormat.itemFrameShort (c : Byte) (p : List Byte) (k : Byte) :
    EncodingMatchesFormat.Statement (.itemFrameShort c p k) := by
  intro cfg
  simp [encode, formOf, rowForm, itemBytes, shortHeader]
theorem EncodingMatchesFormat.itemFrameLong (c : Byte) (p : List Byte) (k : Byte) :
    EncodingMatchesFormat.Statement (.itemFrameLong c p k) := by
  intro cfg
  simp [encode, formOf, rowForm, itemBytes, longHeader]
theorem EncodingMatchesFormat.decSentinel :
    EncodingMatchesFormat.Statement (.decSentinel) := fun _ => rfl
theorem EncodingMatchesFormat.decSizeShort (l : BitVec 7) :
    EncodingMatchesFormat.Statement (.decSizeShort l) := fun _ => rfl
theorem EncodingMatchesFormat.decSizeLong (h : BitVec 7) :
    EncodingMatchesFormat.Statement (.decSizeLong h) := fun _ => rfl
theorem EncodingMatchesFormat.decSizeLow (l : Byte) :
    EncodingMatchesFormat.Statement (.decSizeLow l) := fun _ => rfl
theorem EncodingMatchesFormat.decCommand (c : Byte) :
    EncodingMatchesFormat.Statement (.decCommand c) := fun _ => rfl
theorem EncodingMatchesFormat.decPayload (d : Byte) :
    EncodingMatchesFormat.Statement (.decPayload d) := fun _ => rfl
theorem EncodingMatchesFormat.decChecksum (k : Byte) :
    EncodingMatchesFormat.Statement (.decChecksum k) := fun _ => rfl
theorem EncodingMatchesFormat.rx (b : Byte) :
    EncodingMatchesFormat.Statement (.rx b) := fun _ => rfl
theorem EncodingMatchesFormat.decReset :
    EncodingMatchesFormat.Statement (.decReset) := fun _ => rfl
theorem EncodingMatchesFormat.encFrame (c : Byte) (p : List Byte) :
    EncodingMatchesFormat.Statement (.encFrame c p) := fun _ => rfl
theorem EncodingMatchesFormat.encSentinel (n : Nat) :
    EncodingMatchesFormat.Statement (.encSentinel n) := fun _ => rfl
theorem EncodingMatchesFormat.flush :
    EncodingMatchesFormat.Statement (.flush) := fun _ => rfl
theorem EncodingMatchesFormat.dispatch (c : Byte) (p : List Byte) :
    EncodingMatchesFormat.Statement (.dispatch c p) := fun _ => rfl
theorem EncodingMatchesFormat.hParametersReply (p : List Byte) :
    EncodingMatchesFormat.Statement (.hParametersReply p) := fun _ => rfl
theorem EncodingMatchesFormat.hVersionReply (p : List Byte) :
    EncodingMatchesFormat.Statement (.hVersionReply p) := fun _ => rfl
theorem EncodingMatchesFormat.hConstantsReply (p : List Byte) :
    EncodingMatchesFormat.Statement (.hConstantsReply p) := fun _ => rfl
theorem EncodingMatchesFormat.hPwm1Reply (p : List Byte) :
    EncodingMatchesFormat.Statement (.hPwm1Reply p) := fun _ => rfl
theorem EncodingMatchesFormat.hScratchpadReply (p : List Byte) :
    EncodingMatchesFormat.Statement (.hScratchpadReply p) := fun _ => rfl
theorem EncodingMatchesFormat.hError (p : List Byte) :
    EncodingMatchesFormat.Statement (.hError p) := fun _ => rfl
theorem EncodingMatchesFormat.hUnknown (c : Byte) :
    EncodingMatchesFormat.Statement (.hUnknown c) := fun _ => rfl
theorem EncodingMatchesFormat.pPong :
    EncodingMatchesFormat.Statement (.pPong) := fun _ => rfl
theorem EncodingMatchesFormat.pVersion :
    EncodingMatchesFormat.Statement (.pVersion) := fun _ => rfl
theorem EncodingMatchesFormat.pParameters :
    EncodingMatchesFormat.Statement (.pParameters) := fun _ => rfl
theorem EncodingMatchesFormat.pBufferSeg (p : List Byte) :
    EncodingMatchesFormat.Statement (.pBufferSeg p) := fun _ => rfl
theorem EncodingMatchesFormat.linkInit :
    EncodingMatchesFormat.Statement (.linkInit) := fun _ => rfl
theorem EncodingMatchesFormat.startSampling :
    EncodingMatchesFormat.Statement (.startSampling) := fun _ => rfl
theorem EncodingMatchesFormat.connect :
    EncodingMatchesFormat.Statement (.connect) := fun _ => rfl
theorem EncodingMatchesFormat.armOneshot (reg : Registration) :
    EncodingMatchesFormat.Statement (.armOneshot reg) := fun _ => rfl
theorem EncodingMatchesFormat.setFreeze (v : Bool) :
    EncodingMatchesFormat.Statement (.setFreeze v) := fun _ => rfl
theorem EncodingMatchesFormat.send (c : Byte) (p : List Byte) :
    EncodingMatchesFormat.Statement (.send c p) := fun _ => rfl
theorem EncodingMatchesFormat.resync (n : Nat) :
    EncodingMatchesFormat.Statement (.resync n) := fun _ => rfl
theorem EncodingMatchesFormat.hostReserved5 :
    EncodingMatchesFormat.Statement (.hostReserved5) := fun _ => rfl
theorem EncodingMatchesFormat.hostReserved6 :
    EncodingMatchesFormat.Statement (.hostReserved6) := fun _ => rfl
theorem EncodingMatchesFormat.hostReserved7 :
    EncodingMatchesFormat.Statement (.hostReserved7) := fun _ => rfl
theorem EncodingMatchesFormat.cmdPing :
    EncodingMatchesFormat.Statement (.cmdPing) := fun _ => rfl
theorem EncodingMatchesFormat.cmdGetVersion :
    EncodingMatchesFormat.Statement (.cmdGetVersion) := fun _ => rfl
theorem EncodingMatchesFormat.cmdGetConstants (p : List Byte) :
    EncodingMatchesFormat.Statement (.cmdGetConstants p) := fun _ => rfl
theorem EncodingMatchesFormat.cmdStartSampling :
    EncodingMatchesFormat.Statement (.cmdStartSampling) := fun _ => rfl
theorem EncodingMatchesFormat.cmdSetTrigger (p : List Byte) :
    EncodingMatchesFormat.Statement (.cmdSetTrigger p) := fun _ => rfl
theorem EncodingMatchesFormat.cmdSetHoldoff (p : List Byte) :
    EncodingMatchesFormat.Statement (.cmdSetHoldoff p) := fun _ => rfl
theorem EncodingMatchesFormat.cmdSetVref (p : List Byte) :
    EncodingMatchesFormat.Statement (.cmdSetVref p) := fun _ => rfl
theorem EncodingMatchesFormat.cmdSetPrescaler (p : List Byte) :
    EncodingMatchesFormat.Statement (.cmdSetPrescaler p) := fun _ => rfl
theorem EncodingMatchesFormat.cmdGetParameters :
    EncodingMatchesFormat.Statement (.cmdGetParameters) := fun _ => rfl
theorem EncodingMatchesFormat.cmdSetSamples (p : List Byte) :
    EncodingMatchesFormat.Statement (.cmdSetSamples p) := fun _ => rfl
theorem EncodingMatchesFormat.cmdSetAutotrig (threshold : U16) :
    EncodingMatchesFormat.Statement (.cmdSetAutotrig threshold) := fun _ => rfl
theorem EncodingMatchesFormat.cmdSetFlags (p : List Byte) :
    EncodingMatchesFormat.Statement (.cmdSetFlags p) := fun _ => rfl
theorem EncodingMatchesFormat.cmdSetChannels (p : List Byte) :
    EncodingMatchesFormat.Statement (.cmdSetChannels p) := fun _ => rfl
theorem EncodingMatchesFormat.cmdWriteScratchpad (p : List Byte) :
    EncodingMatchesFormat.Statement (.cmdWriteScratchpad p) := fun _ => rfl
theorem EncodingMatchesFormat.cmdReadScratchpad (p : List Byte) :
    EncodingMatchesFormat.Statement (.cmdReadScratchpad p) := fun _ => rfl
theorem EncodingMatchesFormat.cmdSetPwm1 (p : List Byte) :
    EncodingMatchesFormat.Statement (.cmdSetPwm1 p) := fun _ => rfl
theorem EncodingMatchesFormat.cmdGetPwm1 (p : List Byte) :
    EncodingMatchesFormat.Statement (.cmdGetPwm1 p) := fun _ => rfl
theorem EncodingMatchesFormat.cmdVersionReply (p : List Byte) :
    EncodingMatchesFormat.Statement (.cmdVersionReply p) := fun _ => rfl
theorem EncodingMatchesFormat.cmdBufferSeg (p : List Byte) :
    EncodingMatchesFormat.Statement (.cmdBufferSeg p) := fun _ => rfl
theorem EncodingMatchesFormat.cmdParametersReply (p : List Byte) :
    EncodingMatchesFormat.Statement (.cmdParametersReply p) := fun _ => rfl
theorem EncodingMatchesFormat.cmdConstantsReply (p : List Byte) :
    EncodingMatchesFormat.Statement (.cmdConstantsReply p) := fun _ => rfl
theorem EncodingMatchesFormat.cmdScratchpadReply (p : List Byte) :
    EncodingMatchesFormat.Statement (.cmdScratchpadReply p) := fun _ => rfl
theorem EncodingMatchesFormat.cmdPwm1Reply (p : List Byte) :
    EncodingMatchesFormat.Statement (.cmdPwm1Reply p) := fun _ => rfl
theorem EncodingMatchesFormat.cmdPong (p : List Byte) :
    EncodingMatchesFormat.Statement (.cmdPong p) := fun _ => rfl
theorem EncodingMatchesFormat.cmdError (p : List Byte) :
    EncodingMatchesFormat.Statement (.cmdError p) := fun _ => rfl
theorem EncodingMatchesFormat.cmdUnknown (c : Byte) (p : List Byte) :
    EncodingMatchesFormat.Statement (.cmdUnknown c p) := fun _ => rfl

end Laws
end Sys2Proof
end

