-- ==== Sys2Proof/Tests/Slice0.lean ====
section
/-! SUPPORT. Small tests. Bytes and results are those of spec/95_test_vectors.md (T0) and of the encoding tables of
spec/30_encoding.md; the witnesses at the end meet the hypotheses of the statements. -/

namespace Sys2Proof
namespace Tests

open Sys2Proof.Machine Sys2Proof.Safety

/-! ### Small states -/

/-- T0 with a `DecodeConstants` that reads two bytes and knows nothing else. -/
def cfg0 : Config := Config.t0 (fun p => if p.length = 2 then some (1, 2, 3) else none)

/-- The state after CONNECT, in a phase, with or without a request outstanding; every flush succeeds. -/
def linked (ph : Phase) (ir : Bool) : State :=
  { State.reset with
    link := { LinkState.reset with up := true, phase := ph, inRequest := ir }
    env := ⟨[], [true], [true, true], 0⟩ }

/-- A state with a given decoder, linked and idle in `Sampling`. -/
def decoding (d : DecState) : State := { linked .sampling true with dec := d }

/-- The decoder after `83` (D-4). -/
def dHigh : DecState := ⟨.sizeHigh, 0x83, 0x300, 0, 0, []⟩

/-- The decoder after `03` (D-1). -/
def dCommand : DecState := ⟨.command, 0x03, 3, 0, 0, []⟩

/-- The decoder after `03 81 04` (D-1). -/
def dPayload : DecState := ⟨.payload, 0x86, 1, 0x81, 1, [(0, 0x04)]⟩

/-- The decoder after `03 81 04 03` (D-1). -/
def dChecksum : DecState := ⟨.checksum, 0x85, 0, 0x81, 2, [(0, 0x04), (1, 0x03)]⟩

/-- The state an outcome goes on to. -/
def stateOf : Out → Option State
  | .next s => some s
  | _ => none

/-- What an operation adds to an empty trace. -/
def outOf (o : Out) : Option (List Event) := (stateOf o).map State.out

/-- The bytes of a host-to-device row's frame. -/
def sentBytes (i : Instr) : Option (List Byte) := (sentFrame cfg0 i).map (fun q => frameBytes q.1 q.2)

/-! ### Well-formedness refuses what is ill formed -/

theorem test_wf_short_wrong_checksum : (Instr.itemFrameShort 0x87 [] 0x87).wf cfg0 = false := by decide
theorem test_wf_short_too_long : (Instr.itemFrameShort 0x00 (List.replicate 127 0) 0x80).wf cfg0 = false := by decide +kernel
theorem test_wf_long_wrong_checksum : (Instr.itemFrameLong 0x87 [] 0x07).wf cfg0 = false := by decide
theorem test_wf_long_too_long (p : List Byte) (h : p.length = 32767) : (Instr.itemFrameLong 0x00 p 0x00).wf cfg0 = false := by
  simp [Instr.wf, Config.maxTotalLen, h]
theorem test_wf_size_short_zero : (Instr.decSizeShort 0).wf cfg0 = false := by decide
theorem test_wf_frame_too_long (p : List Byte) (h : p.length = 32767) : (Instr.encFrame 0x1D p).wf cfg0 = false := by
  simp [Instr.wf, Config.maxPayload, h]
theorem test_wf_unknown_is_known : (Instr.hUnknown 0x87).wf cfg0 = false := by decide
theorem test_wf_cmd_unknown_is_known : (Instr.cmdUnknown 0x81 []).wf cfg0 = false := by decide

/-! ### Decoding, from words written out by 30_encoding.md R45 to R62 -/

theorem test_decode_item_sentinel : decode cfg0 (.wire [0b00000000]) = .ok .itemSentinel := by decide
/-- D-1: size 3, command 81, payload 04 03, checksum 85. -/
theorem test_decode_item_short : decode cfg0 (.wire [0x03, 0x81, 0x04, 0x03, 0x85]) =
    .ok (.itemFrameShort 0x81 [0x04, 0x03] 0x85) := by decide
/-- D-10b: the long form that a short one could spell. -/
theorem test_decode_item_long : decode cfg0 (.wire [0x80, 0x01, 0x87, 0x06]) = .ok (.itemFrameLong 0x87 [] 0x06) := by decide
/-- D-10: total length 0. -/
theorem test_decode_zero_length : decode cfg0 (.wire [0x80, 0x00]) = .error .zeroLength := by decide
/-- D-2: the residue of a wrong checksum. -/
theorem test_decode_bad_checksum : decode cfg0 (.wire [0x03, 0x81, 0x04, 0x03, 0x84]) = .error (.badChecksum 0x01) := by decide
theorem test_decode_dec_sentinel : decode cfg0 (.received .size 0b00000000) = .ok .decSentinel := by decide
theorem test_decode_dec_size_short : decode cfg0 (.received .size 0b01111110) = .ok (.decSizeShort 0b1111110) := by decide
theorem test_decode_dec_size_long : decode cfg0 (.received .size 0b10000011) = .ok (.decSizeLong 0b0000011) := by decide
theorem test_decode_dec_size_low : decode cfg0 (.received .sizeHigh 0xC3) = .ok (.decSizeLow 0xC3) := by decide
theorem test_decode_dec_command : decode cfg0 (.received .command 0x00) = .ok (.decCommand 0x00) := by decide
theorem test_decode_dec_payload : decode cfg0 (.received .payload 0x00) = .ok (.decPayload 0x00) := by decide
theorem test_decode_dec_checksum : decode cfg0 (.received .checksum 0x00) = .ok (.decChecksum 0x00) := by decide
theorem test_decode_rx : decode cfg0 (.channel 0x80) = .ok (.rx 0x80) := by decide
theorem test_decode_host : (decode cfg0 (.host 0b000 .zero), decode cfg0 (.host 0b001 ⟨some (7, 9), false, 0, [], 0⟩),
      decode cfg0 (.host 0b010 ⟨none, true, 0, [], 0⟩)) =
    (.ok .connect, .ok (.armOneshot (some (7, 9))), .ok (.setFreeze true)) := by decide
theorem test_decode_host_send : (decode cfg0 (.host 0b011 ⟨none, false, 0x14, [0x80], 0⟩),
      decode cfg0 (.host 0b100 ⟨none, false, 0, [], 3⟩)) = (.ok (.send 0x14 [0x80]), .ok (.resync 3)) := by decide
theorem test_decode_host_reserved : (decode cfg0 (.host 0b101 .zero), decode cfg0 (.host 0b110 .zero),
      decode cfg0 (.host 0b111 .zero)) = (.ok .hostReserved5, .ok .hostReserved6, .ok .hostReserved7) := by decide
theorem test_decode_commands_1 : (decode cfg0 (.command 0x81 [4, 3]), decode cfg0 (.command 0x82 [1]),
      decode cfg0 (.command 0x83 [])) = (.ok (.cmdVersionReply [4, 3]), .ok (.cmdBufferSeg [1]), .ok (.cmdParametersReply [])) := by
  decide
theorem test_decode_commands_2 : (decode cfg0 (.command 0x84 [1, 2]), decode cfg0 (.command 0x85 [0xAA]),
      decode cfg0 (.command 0x86 [])) = (.ok (.cmdConstantsReply [1, 2]), .ok (.cmdScratchpadReply [0xAA]), .ok (.cmdPwm1Reply [])) := by
  decide
/-- Q-12: a host-to-device value is not in the table. -/
theorem test_decode_commands_3 : (decode cfg0 (.command 0x87 []), decode cfg0 (.command 0x88 [7]), decode cfg0 (.command 0x10 [])) =
    (.ok (.cmdPong []), .ok (.cmdError [7]), .ok (.cmdUnknown 0x10 [])) := by decide
theorem test_table_word_frame : decodeTableWord 24 0x868701 = some (.itemFrameShort 0x87 [] 0x86) := by decide +kernel
theorem test_table_word_host : decodeTableWord 8 0b00000010 = some (.setFreeze false) := by decide
theorem test_table_word_size : decodeTableWord 8 0b10000011 = some (.decSizeLong 3) := by decide
/-- A byte placed by `withFetchWord` is what the very next step receives. -/
theorem test_fetch_word : (State.reset.withFetchWord 8 0x83).env.input = [.byte 0x83] ∧
    (step (State.reset.withFetchWord 8 0x83) = exec (.rx 0x83)
      { State.reset.withFetchWord 8 0x83 with env := State.reset.env }) := by exact ⟨rfl, rfl⟩

/-! ### Encoding, section 2.2 of 95_test_vectors.md -/

theorem test_send_controller : (sentBytes .cmdPing, sentBytes .cmdGetVersion, sentBytes .cmdGetParameters, sentBytes .cmdStartSampling) =
    (some [0x01, 0x10, 0x11], some [0x01, 0x11, 0x10], some [0x01, 0x18, 0x19], some [0x01, 0x13, 0x12]) := by decide
theorem test_send_autotrig : (sentBytes (.cmdSetAutotrig 1), sentBytes (.cmdSetAutotrig 100)) =
    (some [0x03, 0x1A, 0x01, 0x00, 0x18], some [0x03, 0x1A, 0x64, 0x00, 0x7D]) := by decide
theorem test_send_autotrig_be : frameBytes 0x1A (bytes16 .be 100) = [0x03, 0x1A, 0x00, 0x64, 0x7D] := by decide
theorem test_send_opaque : (sentBytes (.cmdSetTrigger [0x80]), sentBytes (.cmdGetConstants []), sentBytes (.cmdSetPwm1 [1, 2, 3])) =
    (some [0x02, 0x14, 0x80, 0x96], some [0x01, 0x12, 0x13], some [0x04, 0x1F, 0x01, 0x02, 0x03, 0x1B]) := by decide
/-- Rows 126 and 127 of the table: the last short form and the first long one. -/
theorem test_frame_last_short : (frameBytes 0x82 (List.replicate 126 0xA5)).take 2 = [0x7F, 0x82] ∧
    (frameBytes 0x82 (List.replicate 126 0xA5)).drop 128 = [0xFD] := by decide +kernel
theorem test_frame_first_long : (frameBytes 0x82 (List.replicate 127 0xA5)).take 3 = [0x80, 0x80, 0x82] ∧
    (frameBytes 0x82 (List.replicate 127 0xA5)).drop 130 = [0x27] := by decide +kernel
theorem test_sentinels : outOf (execEncSentinel 3 (linked .ping false)) = some [.txByte 0, .txByte 0, .txByte 0, .txFlush] := by decide
theorem test_flush_fails : outOf (execFlush { linked .ping false with env := ⟨[], [], [false], 0⟩ }) =
    some [.txFlush, .log .transportFlush .none] := by decide
theorem test_enc_frame : outOf (execEncFrame 0x81 [0x04, 0x03] (linked .ping false)) =
    some [.txByte 0x03, .txByte 0x81, .txByte 0x04, .txByte 0x03, .txByte 0x85, .txFlush] := by decide

/-! ### Frame Decoder, section 2.1 of 95_test_vectors.md -/

/-- D-4, first byte. -/
theorem test_dec_size_long : (stateOf (execRx 0x83 (decoding .reset))).map State.dec = some dHigh := by decide
/-- D-4, second byte: total length 963. -/
theorem test_dec_size_low : (stateOf (execRx 0xC3 (decoding dHigh))).map State.dec = some ⟨.command, 0x40, 963, 0, 0, []⟩ := by decide
/-- D-1, first byte. -/
theorem test_dec_size_short : (stateOf (execRx 0x03 (decoding .reset))).map State.dec = some dCommand := by decide
/-- D-1, second byte. -/
theorem test_dec_command : (stateOf (execRx 0x81 (decoding dCommand))).map State.dec = some ⟨.payload, 0x82, 2, 0x81, 0, []⟩ := by decide
/-- D-3: the `L = 1` corner. -/
theorem test_dec_command_last : (stateOf (execRx 0x87 (decoding ⟨.command, 0x01, 1, 0, 0, []⟩))).map State.dec =
    some ⟨.checksum, 0x86, 0, 0x87, 0, []⟩ := by decide
/-- D-1, fourth byte. -/
theorem test_dec_payload : (stateOf (execRx 0x03 (decoding dPayload))).map State.dec = some dChecksum := by decide
/-- D-1, fifth byte. -/
theorem test_dec_checksum : (match decStep 0x85 (decoding dChecksum) with | .next q => some q.1 | _ => none) =
    some (.frame 0x81 [0x04, 0x03]) := by decide
/-- D-2: residue 01. -/
theorem test_dec_checksum_wrong : outOf (execRx 0x84 (decoding dChecksum)) = some [.log .framingChecksum (.byte 0x01)] := by decide
/-- D-10: `80 00`. -/
theorem test_dec_zero_length : (stateOf (execRx 0x00 (decoding ⟨.sizeHigh, 0x80, 0, 0, 0, []⟩))).map
    (fun s => (s.dec, s.out, s.result)) = some (.reset, [.log .framingLength .none], .err .length) := by decide
/-- D-5: sentinels. -/
theorem test_dec_sentinel : (stateOf (execRx 0x00 (decoding .reset))).map State.dec = some .reset := by decide
theorem test_dec_reset_keeps_buffer : (stateOf (execDecReset (decoding dChecksum))).map State.dec =
    some { DecState.reset with buf := [(0, 0x04), (1, 0x03)] } := by decide
/-- D-17 (b): a false frame. -/
theorem test_dec_false_frame : (match decResults [0x02, 0x02, 0x00, 0x00] (decoding .reset) with | some q => some q.1 | _ => none) =
    some [.noFrame, .noFrame, .noFrame, .frame 0x02 [0x00]] := by decide
/-- While the link is down no byte has an effect. -/
theorem test_rx_down : rx cfg0 0x03 State.reset = .next State.reset := rfl

/-- A byte nothing has written reads as 0x00 (log entry 4), and storing 0x00 lists nothing. -/
theorem test_buffer_zero : (stateOf (execRx 0x00 (decoding { dPayload with n := 0, rem := 2 }))).map (fun s => s.dec.buf) = some [] ∧
    readByte 32765 DecState.reset.buf = 0x00 ∧ memRead [] 32765 1 = .ok [0x00] := by decide

/-! ### Dispatcher, section 2.3 of 95_test_vectors.md -/

/-- Q-2: flags 01, so `trigger_invert = 1`. -/
theorem test_parameters : (dispatch cfg0 0x83 [0x20, 0x05, 0x01, 0x07, 0xC2, 0x03, 0x01, 0x02, 0x34, 0x12] (linked .ping false)).out =
    [.onParameters ⟨0x20, 5, 1, 7, 962, 1, 2, 4660⟩] ∧
    (hParametersReply cfg0 [0x20, 0x05, 0x01, 0x07, 0xC2, 0x03, 0x01, 0x02, 0x34, 0x12] (linked .ping false)).2.link.triggerInvert = true := by
  decide
/-- Q-4: nine bytes. -/
theorem test_parameters_short : (dispatch cfg0 0x83 [1, 2, 3, 4, 5, 6, 7, 8, 9] (linked .gettingParameters false)) =
    raise .malformed (.byte 0x83) (linked .gettingParameters false) := by decide
/-- Q-3: the other byte order. -/
theorem test_parameters_be : (decodeParams .be [0x80, 0, 0, 0, 0x03, 0xC2, 0, 1, 0, 0]).numSamples = 962 := by decide
/-- Q-6: recorded although out of phase; the third byte ignored. -/
theorem test_version : dispatch cfg0 0x81 [0x04, 0x03, 0x09] (linked .ping false) =
    raise .outOfPhase (.byte 0x81) { linked .ping false with link := { (linked .ping false).link with version := some (4, 3) } } := by decide
/-- Q-5: one byte. -/
theorem test_version_short : dispatch cfg0 0x81 [0x04] (linked .gettingVersion false) =
    raise .malformed (.byte 0x81) (linked .gettingVersion false) := by decide
/-- Q-7. -/
theorem test_pwm1 : (dispatch cfg0 0x86 [0x03, 0xE8, 0x03, 0xF4, 0x01, 0xFA, 0x00] (linked .ping false)).link.pwm1 =
    some ⟨3, 1000, 500, 250⟩ := by decide
/-- Q-8: six bytes. -/
theorem test_pwm1_short : (dispatch cfg0 0x86 [1, 2, 3, 4, 5, 6] (linked .ping false)).out = [.log .malformed (.byte 0x86)] := by decide
/-- Q-9, Q-10. -/
theorem test_scratchpad_error : (dispatch cfg0 0x85 [0xAA] (linked .ping false)).out = [.log .unhandled (.byte 0x85)] ∧
    (dispatch cfg0 0x88 [0x07] (linked .ping false)).out = [.log .deviceError (.bytes [0x07])] := by decide
/-- Q-12. -/
theorem test_unknown : dispatch cfg0 0x10 [] (linked .ping false) = raise .unknownCommand (.byte 0x10) (linked .ping false) := by decide
/-- Q-14. -/
theorem test_constants : (dispatch cfg0 0x84 [1, 2] (linked .ping false)).out = [.onConstants 1 2 3] ∧
    (dispatch cfg0 0x84 [1] (linked .ping false)).out = [.log .malformed (.byte 0x84)] := by decide

/-! ### Controller, section 2.4 of 95_test_vectors.md -/

/-- Q-16: the payload is ignored. -/
theorem test_pong : (fun s => (s.link.phase, s.out)) (dispatch cfg0 0x87 [1, 2] (linked .ping false)) =
    (.gettingVersion, [.txByte 0x01, .txByte 0x11, .txByte 0x10, .txFlush]) := by decide
/-- K-13. -/
theorem test_pong_out_of_phase : (dispatch cfg0 0x87 [] (linked .sampling true)).out = [.log .outOfPhase (.byte 0x87)] := by decide
/-- Program P1, step 3. -/
theorem test_version_advances : (fun s => (s.link.phase, s.out)) (pVersion cfg0 (linked .gettingVersion false)) =
    (.gettingParameters, [.txByte 0x01, .txByte 0x18, .txByte 0x19, .txFlush]) := by decide
/-- Program P1, step 4. -/
theorem test_parameters_start : (fun s => (s.link.phase, s.link.inRequest, s.out)) (pParameters cfg0 (linked .gettingParameters false)) =
    (.sampling, true, [.txByte 0x01, .txByte 0x13, .txByte 0x12, .txFlush]) := by decide
/-- K-5, as bytes through RX. -/
theorem test_buffer_seg : outOf (rxBatch cfg0 [0x03, 0x82, 0xAA, 0xBB, 0x90] (linked .sampling true)) =
    some [.onSampleFrame [0xAA, 0xBB], .txByte 0x01, .txByte 0x13, .txByte 0x12, .txFlush] := by decide
/-- K-12, second half: the one-shot fires although frozen. -/
theorem test_buffer_seg_fires : (fun s => (s.link.oneshot, s.link.inRequest, s.out)) (dispatch cfg0 0x82 [0x03]
      { linked .sampling true with link := { (linked .sampling true).link with freeze := true, oneshot := some (7, 9) } }) =
    (none, false, [.onSampleFrame [0x03], .onOneshotComplete 7 9]) := by decide
/-- K-6. -/
theorem test_arm_defers : (fun q : Ret => (q.2.link.oneshot, q.2.link.delayRequest, q.2.out)) (armOneshot cfg0 (some (7, 9)) (linked .sampling true)) =
    (some (7, 9), true, [.txByte 0x03, .txByte 0x1A, .txByte 0x01, .txByte 0x00, .txByte 0x18, .txFlush]) := by decide
/-- Program P2, step 8. -/
theorem test_arm_null : (fun q : Ret => (q.1, q.2.link.inRequest, txBytes q.2.out)) (armOneshot cfg0 none (linked .sampling false)) =
    (.ok, true, [0x03, 0x1A, 0x64, 0x00, 0x7D, 0x01, 0x13, 0x12]) := by decide
/-- K-1 and K-2. -/
theorem test_connect : (fun q : Ret => (q.1, q.2.link.up, q.2.out)) (connect cfg0 { State.reset with env := ⟨[], [true], [true], 0⟩ }) =
    (.ok, true, [.txByte 0x01, .txByte 0x10, .txByte 0x11, .txFlush]) := by decide
theorem test_connect_fails : (fun q : Ret => (q.1, q.2.link.up, q.2.out)) (connect cfg0 { linked .sampling true with env := ⟨[], [false], [], 0⟩ }) =
    (.failed, false, [.log .transportOpen .none]) := by decide
/-- K-3. -/
theorem test_freeze_down : stateOf (execSetFreeze true State.reset) =
    some { raise .refused (.reason .notConnected) State.reset with result := .refused } := by decide
/-- K-9, first operation. -/
theorem test_freeze : stateOf (execSetFreeze true (linked .sampling true)) =
    some { linked .sampling true with link := { (linked .sampling true).link with freeze := true }, result := .ok } := by decide
/-- K-19 and K-20. -/
theorem test_send_refused : hostSend cfg0 0x13 [] (linked .ping false) =
    (.refused, raise .refused (.reason .startSamplingIsOwned) (linked .ping false)) := by decide
theorem test_send : (hostSend cfg0 0x14 [0x80] (linked .ping false)).2.out =
    [.txByte 0x02, .txByte 0x14, .txByte 0x80, .txByte 0x96, .txFlush] := by decide
/-- K-22. -/
theorem test_resync : outOf (execResync 3 (linked .ping false)) = some [.txByte 0, .txByte 0, .txByte 0, .txFlush] := by decide
theorem test_reserved : outOf (execHostReserved6 (linked .ping false)) = some [.log .refused (.hostOp 6)] := by decide
theorem test_link_init : (stateOf (execLinkInit (linked .sampling true))).map State.link =
    some { LinkState.reset with up := true } := by decide

/-! ### Witnesses of the statements' hypotheses -/

theorem decInv_high : decInv dHigh := ⟨by decide, by simp [subStateInv, dHigh]⟩
theorem decInv_command : decInv dCommand := ⟨by decide, by simp [subStateInv, dCommand]⟩
theorem decInv_payload : decInv dPayload :=
  ⟨by decide, by simp [subStateInv, dPayload, Config.maxPayload]⟩
theorem decInv_checksum : decInv dChecksum :=
  ⟨by decide, by simp [subStateInv, dChecksum, Config.maxPayload]⟩
theorem decInv_size : decInv DecState.reset := ⟨by decide, by simp [subStateInv, DecState.reset]⟩

/-- A command byte outside a list of eight. -/
theorem exists_not_mem (l : List Byte) (h : l.length ≤ 8) : ∃ c : Byte, c ∉ l := by
  by_contra hc
  have hc : ∀ c : Byte, c ∈ l := by simpa using hc
  have h1 : (Finset.univ : Finset (Fin 256)).card ≤ (l.map BitVec.toFin).toFinset.card :=
    Finset.card_le_card (fun x _ => by simpa using ⟨BitVec.ofFin x, hc _, rfl⟩)
  have h2 := List.toFinset_card_le (l.map BitVec.toFin)
  simp at h1 h2
  omega

theorem next_ne (c : Byte) : c + 1 ≠ c := by revert c; decide

theorem witness_StepKeepsTheInvariant : engineInv (decoding dPayload) :=
  ⟨decInv_payload, by simp [linkInv, decoding, linked, LinkState.reset]⟩

theorem witness_HandshakeStaysIdle : ∃ t,
    let s : State := { linked .sampling true with env := ⟨[.host 1 .zero], [], [true, true], 0⟩ }
    handshakeIdle s ∧ armsOnlyInSampling s ∧ step s = .next t :=
  ⟨_, by simp [handshakeIdle, linked], fun _ _ _ _ _ => rfl, rfl⟩

theorem witness_EncodedInstructionDecodes : cfg0.valid = true ∧ (Instr.itemFrameShort 0x87 [] 0x86).wf cfg0 = true ∧
    encode cfg0 (.itemFrameShort 0x87 [] 0x86) = some (.wire [0x01, 0x87, 0x86]) := by decide

theorem witness_DecodedItemIsItsBytes : decodeWire [0x80, 0x01, 0x87, 0x06] = .ok (.itemFrameLong 0x87 [] 0x06) := by decide

theorem witness_ByteClassesFollowTheTable : (0x00 : Byte) = 0x00 ∧ ((0x01 : Byte) ≠ 0x00 ∧ (0x01 : Byte) &&& 0x80 = 0x00) ∧
    ((0x7F : Byte) ≠ 0x00 ∧ (0x7F : Byte) &&& 0x80 = 0x00) ∧ (0x80 : Byte) &&& 0x80 = 0x80 ∧ (0xFF : Byte) &&& 0x80 = 0x80 := by
  decide

theorem witness_StepRunsTheDecodedOperation :
    State.reset.env.input = [] ∧
    (State.reset.withFetchWord 8 3).env.input = [.host 3 .zero] ∧ decodePort (.host 3 .zero) = .ok (.send 0 []) ∧
    (present (.batch [0x05]) State.reset).env.input = [.batch [0x05]] ∧ decodePort (.batch [0x05]) = .error .truncated := by
  decide

theorem witness_BatchEqualsItsBytesInOrder :
    (present (.batch [0x01, 0x87]) State.reset).env.input = .batch [0x01, 0x87] :: [] := by decide

theorem witness_FrameBytesHaveSizeFormAndChecksum : ([] : List Byte).length ≤ 126 ∧ (List.replicate 126 (0xA5 : Byte)).length ≤ 126 ∧
    (127 ≤ (List.replicate 127 (0xA5 : Byte)).length ∧ (List.replicate 127 (0xA5 : Byte)).length ≤ 32766) ∧
    (127 ≤ (List.replicate 32766 (0xA5 : Byte)).length ∧ (List.replicate 32766 (0xA5 : Byte)).length ≤ 32766) := by
  simp only [List.length_replicate]; decide

theorem witness_EncodedFramesFoldToZero : (List.replicate 32766 (0xA5 : Byte)).length ≤ 32766 := by
  simp only [List.length_replicate]; decide

theorem witness_EncoderEmitsFrameAndFlushes : (List.replicate 32766 (0xA5 : Byte)).length ≤ 32766 ∧
    32766 < (List.replicate 32767 (0xA5 : Byte)).length := by simp only [List.length_replicate]; decide

theorem witness_FlushDeliversWhatPrecedesIt : flushAnswer (linked .ping false) = true ∧
    flushAnswer { linked .ping false with env := ⟨[], [], [false], 0⟩ } = false := by decide

theorem witness_SentinelKeepsTheBoundary : (decoding .reset).link.up = true ∧ decInv (decoding .reset).dec ∧
    (decoding .reset).dec.st = .size := ⟨rfl, decInv_size, rfl⟩

theorem witness_SizeBytesSetTheCounter : (decoding .reset).link.up = true ∧ decInv (decoding .reset).dec ∧
    (decoding .reset).dec.st = .size ∧ (0x7F : Byte) ≠ 0x00 ∧ (0x80 : Byte) ≠ 0x00 := ⟨rfl, decInv_size, rfl, by decide, by decide⟩

theorem witness_LowSizeByteCompletesTheLength :
    (let s := decoding ⟨.sizeHigh, 0x80, 0, 0, 0, []⟩; s.dec.rem.toNat % 256 = 0 ∧ s.dec.rem.toNat + (0x00 : Byte).toNat = 0) ∧
    ((decoding dHigh).dec.rem.toNat % 256 = 0 ∧ (decoding dHigh).dec.rem.toNat + (0x00 : Byte).toNat ≠ 0) := by decide

theorem witness_CommandByteStartsThePayload : 1 ≤ (decoding dCommand).dec.rem.toNat ∧
    1 ≤ (decoding ⟨.command, 0x01, 1, 0, 0, []⟩).dec.rem.toNat := by decide

theorem witness_PayloadByteIsStored :
    (1 ≤ (decoding dPayload).dec.rem.toNat ∧ (decoding dPayload).dec.n.toNat < 32766 ∧
      Memory.wf (decoding dPayload).dec.buf = true) ∧
    (let s := decoding { dPayload with n := 32765 }; 1 ≤ s.dec.rem.toNat ∧ s.dec.n.toNat < 32766) := by decide

theorem witness_ChecksumByteEndsTheFrame :
    (let s := decoding { dChecksum with acc := 0 }; s.dec.acc = 0x00 ∧ s.dec.n.toNat ≤ 32766) ∧
    (let s := decoding ⟨.checksum, 0, 0, 0, 32766, []⟩; s.dec.acc = 0x00 ∧ s.dec.n.toNat ≤ 32766) ∧
    (decoding dChecksum).dec.acc ≠ 0x00 := by decide

/-- A counter of 0; an index past the buffer; a fill count past the buffer. -/
theorem witness_DecoderStopsOutsideItsRange :
    (decoding .reset).dec.rem.toNat = 0 ∧
    (let s := decoding { dPayload with n := 32766 }; 1 ≤ s.dec.rem.toNat ∧ 32766 ≤ s.dec.n.toNat) ∧
    (let s := decoding ⟨.checksum, 0, 0, 0, 32767, []⟩; s.dec.acc = 0x00 ∧ 32766 < s.dec.n.toNat) := by decide

/-- A byte that completes no frame, one that completes a frame, and one that faults. -/
theorem witness_RxFoldsThenRunsTheArm :
    (decoding dPayload).link.up = true ∧
    (∃ t, exec (classifyByte .payload 0x03).instr { decoding dPayload with dec := { dPayload with acc := 0x86 ^^^ 0x03 } } = .next t ∧
      ∀ c p, t.result ≠ .frame c p) ∧
    (∃ t, exec (classifyByte .checksum 0x85).instr { decoding dChecksum with dec := { dChecksum with acc := 0x85 ^^^ 0x85 } } = .next t ∧
      t.result = .frame 0x81 [0x04, 0x03]) ∧
    ∃ f, exec (classifyByte .command 0x03).instr
      { decoding dCommand with dec := { dCommand with rem := 0, acc := 0x03 ^^^ 0x03 } } = .fault f :=
  ⟨rfl, ⟨_, rfl, by simp⟩, ⟨_, rfl, rfl⟩, _, rfl⟩

/-- One state for each sub-state. -/
theorem witness_ByteTransitionsFollowTheTable : ∀ d ∈ [DecState.reset, dHigh, dCommand, dPayload, dChecksum],
    (decoding d).link.up = true ∧ decInv (decoding d).dec := by
  intro d hd
  simp only [List.mem_cons, List.not_mem_nil, or_false] at hd
  rcases hd with rfl | rfl | rfl | rfl | rfl
  · exact ⟨rfl, decInv_size⟩
  · exact ⟨rfl, decInv_high⟩
  · exact ⟨rfl, decInv_command⟩
  · exact ⟨rfl, decInv_payload⟩
  · exact ⟨rfl, decInv_checksum⟩

/-- A byte that is stored; and a buffer with another byte at the fill count. -/
theorem witness_BufferIsWrittenAndReadOnlyUpToTheFillCount :
    ∃ t, exec (.rx 0x03) (decoding dPayload) = .next t ∧
      readByte 1 t.dec.buf ≠ readByte 1 (decoding dPayload).dec.buf ∧
      readByte 1 [(0, 0x04), (1, 0x55)] ≠ readByte 1 (decoding dPayload).dec.buf ∧
      ∀ a, a < (decoding dPayload).dec.n.toNat →
        readByte a [(0, 0x04), (1, 0x55)] = readByte a (decoding dPayload).dec.buf :=
  ⟨_, rfl, by decide, by decide, by decide⟩

theorem witness_WireFrameIsDispatched :
    (Instr.itemFrameShort 0x81 [0x04, 0x03] 0x85).wf Config.machine = true ∧
    (Instr.itemFrameLong 0x87 [] 0x06).wf Config.machine = true ∧
    (decoding .reset).link.up = true ∧ decInv (decoding .reset).dec ∧ (decoding .reset).dec.st = .size :=
  ⟨by decide, by decide, rfl, decInv_size, rfl⟩

theorem witness_DecoderReturnsTheEncodersOperands : (List.replicate 32766 (0 : Byte)).length ≤ 32766 ∧
    decInv (decoding .reset).dec ∧ (decoding .reset).dec.st = .size := ⟨by rw [List.length_replicate], decInv_size, rfl⟩

/-- D-11 (the command byte) and D-14 (the checksum byte). -/
theorem witness_ChangedByteIsDetected :
    decInv (decoding .reset).dec ∧ (decoding .reset).dec.st = .size ∧
    ([0x04, 0x03] : List Byte).length ≤ 126 ∧ 4 < (frameBytes 0x81 [0x04, 0x03]).length ∧
    (frameBytes 0x81 [0x04, 0x03])[1]? ≠ some 0x91 ∧ (frameBytes 0x81 [0x04, 0x03])[4]? ≠ some 0x95 :=
  ⟨decInv_size, rfl, by decide, by decide, by decide, by decide⟩

theorem witness_ZeroRunReachesTheBoundary : decInv (decoding dPayload).dec ∧ zerosNeeded (decoding dPayload).dec = 2 :=
  ⟨decInv_payload, by decide⟩

theorem witness_DispatchRoutesByIdentifier : ∃ c, c ∉ Config.machine.deviceIds := exists_not_mem _ (by simp [Config.deviceIds])

theorem witness_ParametersReplyUpdatesTheCache : 10 ≤ (List.replicate 10 (0 : Byte)).length ∧ (List.replicate 9 (0 : Byte)).length < 10 := by
  decide

theorem witness_VersionReplyIsRecorded : ([0x04] : List Byte).length < 2 ∧ ([] : List Byte).length < 2 := by decide

theorem witness_Pwm1ReplyUpdatesTheCache : 7 ≤ (List.replicate 7 (0 : Byte)).length ∧ (List.replicate 6 (0 : Byte)).length < 7 := by decide

theorem witness_PongStartsTheHandshake : (linked .ping false).link.phase = .ping ∧ (linked .sampling true).link.phase ≠ .ping := by decide

theorem witness_VersionAdvancesTheHandshake : (linked .gettingVersion false).link.phase = .gettingVersion ∧
    (linked .ping false).link.phase ≠ .gettingVersion := by decide

theorem witness_ParametersStartSampling : (linked .gettingParameters false).link.phase = .gettingParameters ∧
    (linked .sampling true).link.phase ≠ .gettingParameters := by decide

/-- The three branches in `Sampling`, and a state outside it. -/
theorem witness_BufferSegTakesOneOfThreeBranches :
    (let s := { linked .sampling true with link := { (linked .sampling true).link with oneshot := some (7, 9) } };
      s.link.phase = .sampling ∧ s.link.oneshot = some (7, 9) ∧ s.link.delayRequest = false) ∧
    (let s := linked .sampling true;
      s.link.phase = .sampling ∧ (s.link.oneshot = none ∨ s.link.delayRequest = true) ∧ s.link.freeze = false) ∧
    (let s := { linked .sampling true with link := { (linked .sampling true).link with
        freeze := true, delayRequest := true, oneshot := some (7, 9) } };
      s.link.phase = .sampling ∧ (s.link.oneshot = none ∨ s.link.delayRequest = true) ∧ s.link.freeze = true) ∧
    (linked .ping false).link.phase ≠ .sampling := by decide

theorem witness_ConnectInitialisesAndSendsPing : openAnswer (linked .sampling true) = true ∧
    openAnswer { linked .sampling true with env := ⟨[], [false], [], 0⟩ } = false := by decide

theorem witness_ArmOneshotDefersOrSends : ((linked .sampling true).link.up = true ∧ (linked .sampling true).link.inRequest = true) ∧
    ((linked .sampling false).link.up = true ∧ (linked .sampling false).link.inRequest = false) := by decide

theorem witness_SetFreezeWritesTheFlagOnly : (linked .sampling true).link.up = true := rfl

theorem witness_SendFramesWhatTheHostGives : (linked .ping false).link.up = true ∧
    (∃ c, c ≠ Config.machine.cmdStartSampling) ∧ (List.replicate 32766 (0 : Byte)).length ≤ 32766 ∧
    32766 < (List.replicate 32767 (0 : Byte)).length ∧ ∃ c, c = Config.machine.cmdStartSampling :=
  ⟨rfl, ⟨_, next_ne _⟩, by rw [List.length_replicate], by rw [List.length_replicate]; decide, _, rfl⟩

theorem witness_ResyncAndReservedCodes : (linked .ping false).link.up = true := rfl

/-- Each of the operations the statement names, while down. -/
theorem witness_HostOperationsAreRefusedWhileDown : State.reset.link.up = false ∧
    (∀ i ∈ [Instr.armOneshot none, .armOneshot (some (7, 9)), .setFreeze true, .send 0x14 [], .resync 3],
      (∃ reg, i = .armOneshot reg) ∨ (∃ v, i = .setFreeze v) ∨ (∃ c p, i = .send c p) ∨ (∃ n, i = .resync n)) ∧
    ∀ i ∈ [Instr.rx 0x03, .itemSentinel, .itemFrameShort 0x87 [] 0x86, .itemFrameLong 0x87 [] 0x06],
      (∃ b, i = .rx b) ∨ i = .itemSentinel ∨ (∃ c p k, i = .itemFrameShort c p k) ∨ (∃ c p k, i = .itemFrameLong c p k) := by
  refine ⟨rfl, fun i hi => ?_, fun i hi => ?_⟩ <;>
    simp only [List.mem_cons, List.not_mem_nil, or_false] at hi
  · rcases hi with rfl | rfl | rfl | rfl | rfl <;> simp
  · rcases hi with rfl | rfl | rfl | rfl <;> simp

theorem witness_OpaqueCommandsGoThroughSend : (linked .ping false).link.up = true ∧ ([0x80] : List Byte).length ≤ 32766 ∧
    Instr.cmdGetPwm1 [0x80] ∈ [Instr.cmdSetTrigger [0x80], .cmdGetPwm1 [0x80]] := by decide

theorem witness_ReceivedCommandsRunTheirHandlers : 2 ≤ ([4, 3] : List Byte).length ∧ ([4] : List Byte).length < 2 ∧
    10 ≤ (List.replicate 10 (0 : Byte)).length ∧ (List.replicate 9 (0 : Byte)).length < 10 ∧ ∃ c, c ∉ Config.machine.deviceIds :=
  ⟨by decide, by decide, by decide, by decide, witness_DispatchRoutesByIdentifier⟩

theorem witness_OutOfPhaseIsLoggedAndIgnored : (linked .sampling true).link.phase ≠ .ping ∧
    (linked .ping false).link.phase ≠ .gettingVersion ∧ (linked .gettingParameters false).link.phase ≠ .sampling ∧
    ((linked .sampling true).link.phase ≠ .gettingParameters ∧ 10 ≤ (List.replicate 10 (0 : Byte)).length) := by decide

theorem witness_TraceOnlyGrows : ∃ t, step (State.reset.withFetchWord 8 7) = .next t := ⟨_, rfl⟩

theorem witness_PhaseMovesOnlyByTheTable : (∃ t, exec (.rx 0x03) (decoding dPayload) = .next t) ∧
    (2 : BitVec 3) ≠ 0 ∧ ∃ t, exec (decodeHost 2 .zero) (linked .ping false) = .next t := ⟨⟨_, rfl⟩, by decide, _, rfl⟩

theorem witness_UpAndFreezeHaveOneWriter : (∃ t, exec (.rx 0x03) (decoding dPayload) = .next t) ∧ Instr.rx 0x03 ≠ .connect ∧
    Instr.rx 0x03 ≠ .linkInit ∧ ∀ v, Instr.rx 0x03 ≠ .setFreeze v := ⟨⟨_, rfl⟩, by simp, by simp, by simp⟩

theorem witness_OutstandingRequestBlocksTheNext :
    (decoding dPayload).link.phase = .sampling ∧ (decoding dPayload).link.inRequest = true ∧ (decoding dPayload).link.up = true ∧
    (∃ t, exec (.rx 0x03) (decoding dPayload) = .next t) ∧ (∃ t, exec (.armOneshot none) (decoding dPayload) = .next t) ∧
    (∃ t, exec (.setFreeze true) (decoding dPayload) = .next t) ∧ (∃ t, exec (.send 0x14 [0x80]) (decoding dPayload) = .next t) ∧
    (∃ t, exec (.resync 0) (decoding dPayload) = .next t) ∧ ∃ t, exec .hostReserved5 (decoding dPayload) = .next t :=
  ⟨rfl, rfl, rfl, ⟨_, rfl⟩, ⟨_, rfl⟩, ⟨_, rfl⟩, ⟨_, rfl⟩, ⟨_, rfl⟩, _, rfl⟩

theorem witness_DeferredOneshotFiresOnTheNextFrame :
    ((linked .sampling true).link.up = true ∧ (linked .sampling true).link.phase = .sampling ∧
      (linked .sampling true).link.inRequest = true ∧ (linked .sampling true).link.freeze = false) ∧
    (let s := { linked .sampling true with link := { (linked .sampling true).link with freeze := true } };
      s.link.up = true ∧ s.link.phase = .sampling ∧ s.link.inRequest = true ∧ s.link.freeze = true) := by decide

theorem witness_ByteWithoutFrameLeavesTheController : ∃ t, exec (.rx 0x84) (decoding dChecksum) = .next t ∧
    ∀ c p, t.result ≠ .frame c p := ⟨_, rfl, by simp⟩

end Tests
end Sys2Proof
end

section
/-! The byte classes of 30_encoding.md R53: what the table's mask 0x80 says of a byte's value, and one equation per row of `Size`. -/

namespace Sys2Proof

/-! ### The mask of bit 7 -/

/-- The table's mask keeps bit 7 alone. -/
theorem and_mask80 (b : Byte) : b &&& 0x80 = if b.msb then 0x80 else 0 := by
  have h := BitVec.and_twoPow b 7
  rwa [← BitVec.msb_eq_getLsbD_last] at h

theorem and_mask80_eq_zero_iff (b : Byte) : b &&& 0x80 = 0 ↔ b.toNat < 128 := by
  rw [and_mask80, ← Machine.msb_eq_false_iff]
  cases b.msb <;> simp

theorem and_mask80_eq_mask_iff (b : Byte) : b &&& 0x80 = 0x80 ↔ 128 ≤ b.toNat := by
  rw [and_mask80, ← not_lt, ← Machine.msb_eq_false_iff]
  cases b.msb <;> simp

/-! ### The rows of `Size` -/

theorem classifyByte_size_zero : classifyByte .size 0 = .sentinel := rfl

theorem classifyByte_size_short {b : Byte} (h0 : b ≠ 0) (hb : b.toNat < 128) :
    classifyByte .size b = .sizeShort (low7 b) := by
  simp only [classifyByte, if_neg h0, if_pos ((Machine.msb_eq_false_iff b).2 hb)]

theorem classifyByte_size_long {b : Byte} (hb : 128 ≤ b.toNat) : classifyByte .size b = .sizeLong (low7 b) := by
  have h0 : b ≠ 0 := by rintro rfl; simp at hb
  have hm : ¬ b.msb = false := by rw [Machine.msb_eq_false_iff]; omega
  simp only [classifyByte, if_neg h0, if_neg hm]

/-! ### The table -/

/-- Settles O9. In `Size` the mask fixes the side of 128 the byte is on, hence its row and what its low seven bits are worth; the
other sub-states have one row each. -/
theorem byteClassesFollowTheTable : Obligations.ByteClassesFollowTheTable := by
  unfold Obligations.ByteClassesFollowTheTable
  intro b
  have hlow := Machine.low7_toNat b
  refine ⟨?sentinel, ?short, ?long, rfl, rfl, rfl, rfl⟩
  case sentinel =>
    rintro rfl
    rw [classifyByte_size_zero, ByteClass.instr]
  case short =>
    intro h0 hmask
    have hb : b.toNat < 128 := (and_mask80_eq_zero_iff b).1 hmask
    have hpos : b.toNat ≠ 0 := fun e => h0 (BitVec.eq_of_toNat_eq e)
    exact ⟨low7 b, by rw [classifyByte_size_short h0 hb, ByteClass.instr], by omega, by omega⟩
  case long =>
    intro hmask
    have hb : 128 ≤ b.toNat := (and_mask80_eq_mask_iff b).1 hmask
    have hlt := b.isLt
    exact ⟨low7 b, by rw [classifyByte_size_long hb, ByteClass.instr], by omega⟩

end Sys2Proof
end

section
/-! The Frame Decoder's operations on a sentinel, a first size byte, a command byte and a payload byte (40_frame_decoder.md R67 to R69,
R71, R72). -/

namespace Sys2Proof
namespace Machine

open Sys2Proof.Safety

/-! ### A byte received at a frame boundary -/

/-- At a frame boundary every register the decoder's reset writes holds its reset value already (10_state.md R27). -/
theorem decReset_eq_self {s : State} (hi : decInv s.dec) (hst : s.dec.st = .size) : decReset s = s := by
  obtain ⟨⟨st, acc, rem, cmd, n, buf⟩, link, out, env, result⟩ := s
  obtain rfl : st = .size := hst
  obtain ⟨-, rfl, rfl, rfl, rfl⟩ := hi
  rfl

/-- RX of a byte that completes no frame dispatches nothing. -/
theorem rx_of_noFrame {cfg : Config} {b : Byte} {s t : State} (hu : s.link.up = true)
    (h : decStep b s = .next (.noFrame, t)) : rx cfg b s = .next { t with result := .noFrame } :=
  rx_of_decStep hu h

theorem rx_sentinel {cfg : Config} {s : State} (hu : s.link.up = true) (hi : decInv s.dec) (hst : s.dec.st = .size) :
    rx cfg 0 s = .next { s with result := .noFrame } := by
  rw [rx_of_noFrame hu (decStep_sentinel hst), decReset_eq_self hi hst]

/-- A run of sentinels: each finds the decoder where the first one found it. -/
theorem rxBatch_sentinels {cfg : Config} {s : State} (hu : s.link.up = true) (hi : decInv s.dec) (hst : s.dec.st = .size)
    (n : Nat) : rxBatch cfg (List.replicate (n + 1) 0) s = .next { s with result := .noFrame } := by
  induction n generalizing s with
  | zero => simp only [List.replicate, rxBatch, rx_sentinel hu hi hst]
  | succ n ih =>
    rw [List.replicate_succ, rxBatch, rx_sentinel hu hi hst]
    exact ih (s := { s with result := .noFrame }) hu hi hst

/-- Settles O17. The item is the run of one sentinel. -/
theorem sentinelKeepsTheBoundary : Obligations.SentinelKeepsTheBoundary := by
  unfold Obligations.SentinelKeepsTheBoundary
  intro s
  refine ⟨rfl, fun hu hi hst => ⟨?selected, rx_sentinel hu hi hst, rxBatch_sentinels hu hi hst 0, rxBatch_sentinels hu hi hst⟩⟩
  case selected => rw [hst, classifyByte_size_zero, ByteClass.instr]

/-! ### The size bytes -/

/-- A first size byte that is no sentinel, received at a frame boundary (40_frame_decoder.md R68, R69). -/
theorem rx_size {cfg : Config} {b : Byte} {s : State} (hu : s.link.up = true) (hi : decInv s.dec)
    (hst : s.dec.st = .size) (h0 : b ≠ 0) :
    ∃ t, rx cfg b s = .next t ∧ t.dec.acc = b ∧
      (b.toNat < 128 → t.dec.st = .command ∧ t.dec.rem.toNat = b.toNat) ∧
      (128 ≤ b.toNat → t.dec.st = .sizeHigh ∧ t.dec.rem.toNat = (b.toNat - 128) * 256) := by
  obtain ⟨r, t, hstep, -, heffect, -, -⟩ := decStep_spec b s hi
  simp only [ByteEffect, hst] at heffect
  obtain ⟨rfl, -, -, hsize⟩ := heffect
  obtain ⟨hacc, -, -, hshort, hlong⟩ := hsize h0
  exact ⟨_, rx_of_noFrame hu hstep, hacc, hshort, hlong⟩

/-- Settles O19. By themselves the two arms only write the length; received, the byte is also folded into an accumulator that the
boundary keeps at zero. -/
theorem sizeBytesSetTheCounter : Obligations.SizeBytesSetTheCounter := by
  unfold Obligations.SizeBytesSetTheCounter
  refine ⟨fun l s => ⟨_, rfl, lenShort_toNat l, rfl⟩, fun h s => ⟨_, rfl, lenHigh_toNat h, rfl⟩, ?received⟩
  case received =>
    intro b s hu hi hst h0
    obtain ⟨t, hrx, hacc, hshort, hlong⟩ := rx_size (cfg := Config.machine) hu hi hst h0
    refine ⟨t, hrx, hacc, ?_⟩
    by_cases hb : b.toNat < 128
    · obtain ⟨hst', hrem⟩ := hshort hb
      exact ⟨by rw [if_pos hb, hrem], by rw [if_pos hb, hst']⟩
    · obtain ⟨hst', hrem⟩ := hlong (not_lt.1 hb)
      exact ⟨by rw [if_neg hb, hrem], by rw [if_neg hb, hst']⟩

/-! ### The bytes that are counted -/

theorem ne_zero_of_one_le_toNat {r : U15} (h : 1 ≤ r.toNat) : r ≠ 0 := by
  rintro rfl; simp at h

/-- DEC.COMMAND where the counter can be taken from (40_frame_decoder.md R71). -/
theorem exec_decCommand {s : State} (hr : 1 ≤ s.dec.rem.toNat) (c : Byte) :
    exec (.decCommand c) s = .next { s with
      dec := { s.dec with
        cmd := c, n := 0, rem := s.dec.rem - 1, st := if s.dec.rem.toNat = 1 then .checksum else .payload }
      result := .noFrame } := by
  simp only [exec, execDecCommand, decCommand, if_neg (ne_zero_of_one_le_toNat hr), sub_one_eq_zero_iff hr, finish, leave]

/-- Settles O21. The counter read before the step decides the sub-state: it was 1 exactly when nothing is left after. -/
theorem commandByteStartsThePayload : Obligations.CommandByteStartsThePayload := by
  unfold Obligations.CommandByteStartsThePayload
  intro c s hr
  exact ⟨_, exec_decCommand hr c, sub_one_toNat hr, rfl⟩

/-- A write at an address of the buffer goes through. -/
theorem memWrite_inside {a : Nat} (ha : a < Config.bufCap) (v : Byte) (m : List Host.Cell) :
    memWrite a v m = some (storeByte a v m) := if_pos ha

/-- DEC.PAYLOAD where the counter can be taken from and the fill count is an address of the buffer (40_frame_decoder.md R72). -/
theorem exec_decPayload {s : State} (hr : 1 ≤ s.dec.rem.toNat) (hn : s.dec.n.toNat < Config.bufCap) (d : Byte) :
    exec (.decPayload d) s = .next { s with
      dec := { s.dec with
        buf := storeByte s.dec.n.toNat d s.dec.buf, n := s.dec.n + 1, rem := s.dec.rem - 1,
        st := if s.dec.rem.toNat = 1 then .checksum else s.dec.st }
      result := .noFrame } := by
  simp only [exec, execDecPayload, decPayload, if_neg (ne_zero_of_one_le_toNat hr), memWrite_inside hn,
    sub_one_eq_zero_iff hr, finish, leave]

/-- Settles O22. The buffer's clauses are the laws of the write; the premise on the fill count is that it is an address. -/
theorem payloadByteIsStored : Obligations.PayloadByteIsStored := by
  unfold Obligations.PayloadByteIsStored
  intro d s hr hn
  have hwrite := memWrite_inside hn d s.dec.buf
  obtain ⟨-, hsame, hother⟩ := memWrite_spec hwrite
  exact ⟨_, exec_decPayload hr hn d, hsame, hother, fun hwf => memWrite_keeps_wf hwf hwrite, add_one_toNat hn,
    sub_one_toNat hr, rfl⟩

end Machine
end Sys2Proof
end

section
/-! The bytes of an encoded frame (41_frame_encoder.md R82, R83): the size field's two forms as numbers, and the checksum after the
body they begin. -/

namespace Sys2Proof
namespace Machine

/-! ### The size field -/

/-- A bit 7 in front of seven low bits, as a number. -/
theorem bit7_append_eq_ofNat (b : BitVec 1) (n : Nat) :
    b ++ BitVec.ofNat 7 n = BitVec.ofNat 8 (b.toNat * 128 + n % 128) := by
  have hb := b.isLt
  apply BitVec.eq_of_toNat_eq
  rw [BitVec.toNat_append, BitVec.toNat_ofNat, BitVec.toNat_ofNat,
    ← Nat.shiftLeft_add_eq_or_of_lt (Nat.mod_lt n (by decide)), Nat.shiftLeft_eq]
  omega

/-- The size field of a total length below bit 7. -/
theorem frameHeader_short {total : Nat} (h : total ≤ 127) : frameHeader total = [BitVec.ofNat 8 total] := by
  have hlow : total % 128 = total := Nat.mod_eq_of_lt (by omega)
  rw [frameHeader, if_pos h, shortHeader, BitVec.cast_eq, bit7_append_eq_ofNat, hlow]
  simp

/-- The size field of a total length that needs more than seven bits and has at most fifteen. -/
theorem frameHeader_long {total : Nat} (h : 127 < total) (h' : total < 2 ^ 15) :
    frameHeader total = [BitVec.ofNat 8 (128 + total / 256), BitVec.ofNat 8 (total % 256)] := by
  have hhigh : total / 256 % 128 = total / 256 := Nat.mod_eq_of_lt (by omega)
  have hlow : BitVec.ofNat 8 total = BitVec.ofNat 8 (total % 256) := by
    apply BitVec.eq_of_toNat_eq; simp
  rw [frameHeader, if_neg (by omega), longHeader, BitVec.cast_eq, bit7_append_eq_ofNat, hhigh, hlow]
  simp

/-! ### The frame -/

/-- A frame is its size field, command and payload, and the exclusive or of these. -/
theorem frameBytes_of_header {c : Byte} {p header : List Byte} (h : frameHeader (p.length + 1) = header) :
    frameBytes c p = header ++ c :: p ++ [(header ++ c :: p).foldl (· ^^^ ·) 0x00] := by
  have hbody : frameBody c p = header ++ c :: p := by rw [frameBody, h, List.append_assoc, List.singleton_append]
  rw [frameBytes, hbody]
  rfl

/-- Settles O12. The total length, one more than the payload's, fixes the size field's form. -/
theorem frameBytesHaveSizeFormAndChecksum : Obligations.FrameBytesHaveSizeFormAndChecksum := by
  unfold Obligations.FrameBytesHaveSizeFormAndChecksum
  intro c p
  refine ⟨?short, ?long⟩
  case short =>
    intro hp
    exact frameBytes_of_header (frameHeader_short (by omega))
  case long =>
    intro hp hmax
    exact frameBytes_of_header (frameHeader_long (by omega) (by omega))

end Machine
end Sys2Proof
end

section
/-! The Command Dispatcher's handler of an unknown command (42_command_dispatcher.md R98), and the records it decodes (R100, R101): a
16-bit field is the value of the two bytes it stands on (20_memory.md R35). -/

namespace Sys2Proof
namespace Machine

/-! ### An operation that only logs -/

/-- An operation that raises one log event and returns nothing. -/
theorem leave_noResult_raise (kind : LogKind) (info : Info) (s : State) :
    leave (noResult (raise kind info s)) = .next { s with out := s.out ++ [.log kind info], result := .none } := rfl

/-- Settles O38. The handler is one raise (R98). -/
theorem unknownCommandIsLogged : Obligations.UnknownCommandIsLogged := by
  unfold Obligations.UnknownCommandIsLogged
  intro c s
  calc
    exec (.hUnknown c) s = leave (noResult (raise .unknownCommand (.byte c) s)) := rfl
    _ = .next { s with out := s.out ++ [.log .unknownCommand (.byte c)], result := .none } :=
      leave_noResult_raise .unknownCommand (.byte c) s

/-! ### A 16-bit field as a number -/

/-- A byte in front of another, as a number. -/
theorem byte_append_byte_toNat (hi lo : Byte) : (hi ++ lo : U16).toNat = 256 * hi.toNat + lo.toNat := by
  rw [BitVec.toNat_append, ← Nat.shiftLeft_add_eq_or_of_lt lo.isLt, Nat.shiftLeft_eq, Nat.mul_comm]

theorem u16At_le_pair_toNat (x y : Byte) : (u16At .le [x, y] 0).toNat = x.toNat + 256 * y.toNat :=
  (byte_append_byte_toNat y x).trans (Nat.add_comm _ _)

theorem u16At_be_pair_toNat (x y : Byte) : (u16At .be [x, y] 0).toNat = 256 * x.toNat + y.toNat :=
  byte_append_byte_toNat x y

/-! ### The records, byte by byte -/

/-- The layout of DeviceParameters (20_memory.md R38): each 16-bit field depends on its own two bytes. -/
theorem decodeParams_of_bytes (order : ByteOrder) (a0 a1 a2 a3 a4 a5 a6 a7 a8 a9 : Byte) (rest : List Byte) :
    decodeParams order (a0 :: a1 :: a2 :: a3 :: a4 :: a5 :: a6 :: a7 :: a8 :: a9 :: rest) =
      ⟨a0, a1, a2, a3, u16At order [a4, a5] 0, a6, a7, u16At order [a8, a9] 0⟩ := by
  cases order <;> rfl

/-- The layout of PwmConfig (20_memory.md R39): each 16-bit field depends on its own two bytes. -/
theorem decodePwm_of_bytes (order : ByteOrder) (a0 a1 a2 a3 a4 a5 a6 : Byte) (rest : List Byte) :
    decodePwm order (a0 :: a1 :: a2 :: a3 :: a4 :: a5 :: a6 :: rest) =
      ⟨a0, u16At order [a1, a2] 0, u16At order [a3, a4] 0, u16At order [a5, a6] 0⟩ := by
  cases order <;> rfl

/-- Settles O39. Each record is laid out the same in both orders; the order decides what a field's pair of bytes is worth. -/
theorem recordFieldsAreReadInOrder : Obligations.RecordFieldsAreReadInOrder := by
  unfold Obligations.RecordFieldsAreReadInOrder
  intro a0 a1 a2 a3 a4 a5 a6 a7 a8 a9 rest
  have hparams := fun order => decodeParams_of_bytes order a0 a1 a2 a3 a4 a5 a6 a7 a8 a9 rest
  have hpwm := fun order => decodePwm_of_bytes order a0 a1 a2 a3 a4 a5 a6 rest
  refine ⟨?paramsLe, ?paramsBe, ?pwmLe, ?pwmBe⟩
  case paramsLe => exact ⟨_, _, u16At_le_pair_toNat a4 a5, u16At_le_pair_toNat a8 a9, hparams .le⟩
  case paramsBe => exact ⟨_, _, u16At_be_pair_toNat a4 a5, u16At_be_pair_toNat a8 a9, hparams .be⟩
  case pwmLe =>
    exact ⟨_, _, _, u16At_le_pair_toNat a1 a2, u16At_le_pair_toNat a3 a4, u16At_le_pair_toNat a5 a6, hpwm .le⟩
  case pwmBe =>
    exact ⟨_, _, _, u16At_be_pair_toNat a1 a2, u16At_be_pair_toNat a3 a4, u16At_be_pair_toNat a5 a6, hpwm .be⟩

end Machine
end Sys2Proof
end

section
/-! The Acquisition Flow Controller's handlers of PONG and of a version reply (43_flow_controller.md R110, R111): in the phase that
awaits the reply the next request is sent and the phase moves on, and in any other phase the reply is logged. -/

namespace Sys2Proof
namespace Machine

open Sys2Proof.Safety

/-! ### An operation that sends a frame and moves the phase -/

/-- The phase moves whatever the flush of the frame answers. -/
theorem leave_noResult_setPhase_sendFrame (ph : Phase) (c : Byte) (s : State) :
    leave (noResult (setPhase ph (sendFrame c [] s).2)) = .next
      { afterFrame c [] s with link := { s.link with phase := ph }, result := .none } := by
  rw [sendFrame_empty]; rfl

/-! ### PONG -/

theorem pPong_of_ping {cfg : Config} {s : State} (h : s.link.phase = .ping) :
    pPong cfg s = setPhase .gettingVersion (sendFrame cfg.cmdGetVersion [] s).2 := if_pos h

theorem pPong_outOfPhase {cfg : Config} {s : State} (h : s.link.phase ≠ .ping) :
    pPong cfg s = raise .outOfPhase (.byte cfg.cmdPong) s := if_neg h

theorem exec_pPong (s : State) : exec .pPong s = leave (noResult (pPong Config.machine s)) := rfl

/-- Settles O40. The two branches of the handler, a send that moves the phase and a raise. -/
theorem pongStartsTheHandshake : Obligations.PongStartsTheHandshake := by
  unfold Obligations.PongStartsTheHandshake
  intro s
  refine ⟨fun hphase => ?inPing, fun hphase => ?elsewhere⟩
  case inPing => rw [exec_pPong, pPong_of_ping hphase, leave_noResult_setPhase_sendFrame]
  case elsewhere => rw [exec_pPong, pPong_outOfPhase hphase, leave_noResult_raise]

/-! ### The version reply -/

theorem pVersion_of_gettingVersion {cfg : Config} {s : State} (h : s.link.phase = .gettingVersion) :
    pVersion cfg s = setPhase .gettingParameters (sendFrame cfg.cmdGetParameters [] s).2 := if_pos h

theorem pVersion_outOfPhase {cfg : Config} {s : State} (h : s.link.phase ≠ .gettingVersion) :
    pVersion cfg s = raise .outOfPhase (.byte cfg.cmdVersionReply) s := if_neg h

theorem exec_pVersion (s : State) : exec .pVersion s = leave (noResult (pVersion Config.machine s)) := rfl

/-- Settles O41. The two branches of the handler, a send that moves the phase and a raise. -/
theorem versionAdvancesTheHandshake : Obligations.VersionAdvancesTheHandshake := by
  unfold Obligations.VersionAdvancesTheHandshake
  intro s
  refine ⟨fun hphase => ?inGettingVersion, fun hphase => ?elsewhere⟩
  case inGettingVersion => rw [exec_pVersion, pVersion_of_gettingVersion hphase, leave_noResult_setPhase_sendFrame]
  case elsewhere => rw [exec_pVersion, pVersion_outOfPhase hphase, leave_noResult_raise]

end Machine
end Sys2Proof
end

section
/-! The wire items (30_encoding.md R45 to R52): the exclusive or of a byte list, the size fields as numbers, and the parser of a wire
item, which inverts the item's bytes. -/

namespace Sys2Proof

open Machine

/-! ### The exclusive or of a list -/

theorem foldl_xor (k : Byte) (bs : List Byte) : bs.foldl (fun k x => k ^^^ x) k = k ^^^ xorFold bs := by
  induction bs generalizing k with
  | nil => simp [xorFold]
  | cons b bs ih =>
    have hfold : xorFold (b :: bs) = 0 ^^^ b ^^^ xorFold bs := ih (0 ^^^ b)
    rw [List.foldl_cons, ih, hfold]
    simp [BitVec.xor_assoc]

theorem xorFold_cons (b : Byte) (bs : List Byte) : xorFold (b :: bs) = b ^^^ xorFold bs := by
  have hfold : xorFold (b :: bs) = 0 ^^^ b ^^^ xorFold bs := foldl_xor (0 ^^^ b) bs
  rw [hfold]
  simp

theorem xorFold_append (as bs : List Byte) : xorFold (as ++ bs) = xorFold as ^^^ xorFold bs := by
  rw [xorFold, List.foldl_append, foldl_xor]; rfl

/-- A checksum byte makes a frame fold to zero exactly when it is the fold of the bytes before it (R52). -/
theorem xorFold_append_checksum (bs : List Byte) (k : Byte) : xorFold (bs ++ [k]) = 0 ↔ xorFold bs = k := by
  have hk : xorFold [k] = k := by simp [xorFold]
  rw [xorFold_append, hk]
  exact BitVec.xor_eq_zero_iff

/-- The format's own condition folds from the other end. -/
theorem foldsToZero_iff (bs : List Byte) : foldsToZero bs = true ↔ xorFold bs = 0 := by
  have hfold : bs.foldr (fun x k => x ^^^ k) 0 = xorFold bs := by
    induction bs with
    | nil => rfl
    | cons b bs ih => rw [List.foldr_cons, ih, xorFold_cons]
  rw [foldsToZero, hfold, beq_iff_eq]

/-! ### The size field -/

theorem shortHeader_toNat {b : Byte} (hb : b.toNat < 128) : shortHeader b.toNat = [b] := by
  have h := frameHeader_short (total := b.toNat) (by omega)
  rwa [frameHeader, if_pos (by omega), BitVec.ofNat_toNat, BitVec.setWidth_eq] at h

theorem longHeader_eq {total : Nat} (h : total < 2 ^ 15) :
    longHeader total = [BitVec.ofNat 8 (128 + total / 256), BitVec.ofNat 8 total] := by
  rw [longHeader, BitVec.cast_eq, bit7_append_eq_ofNat, Nat.mod_eq_of_lt (show total / 256 < 128 by omega)]
  simp

theorem longHeader_toNat {b0 : Byte} (hb : 128 ≤ b0.toNat) (b1 : Byte) :
    longHeader ((b0.toNat - 128) * 256 + b1.toNat) = [b0, b1] := by
  have h0 := b0.isLt
  have h1 := b1.isLt
  rw [longHeader_eq (by omega)]
  congr 1
  · apply BitVec.eq_of_toNat_eq; rw [BitVec.toNat_ofNat]; omega
  · congr 1; apply BitVec.eq_of_toNat_eq; rw [BitVec.toNat_ofNat]; omega

/-- The one byte of a short size field, as a number (R47). -/
theorem shortHeader_spec {total : Nat} (h1 : 1 ≤ total) (h : total ≤ 127) :
    ∃ b : Byte, shortHeader total = [b] ∧ b ≠ 0 ∧ b.toNat = total := by
  have hb : (BitVec.ofNat 8 total).toNat = total := by rw [BitVec.toNat_ofNat]; omega
  refine ⟨BitVec.ofNat 8 total, ?_, fun e => ?_, hb⟩
  · rw [← shortHeader_toNat (by omega), hb]
  · rw [e] at hb; simp at hb; omega

/-- The two bytes of a long size field, as a number (R48). -/
theorem longHeader_spec {total : Nat} (h : total < 2 ^ 15) :
    ∃ b0 b1 : Byte, longHeader total = [b0, b1] ∧ 128 ≤ b0.toNat ∧ (b0.toNat - 128) * 256 + b1.toNat = total := by
  have hb0 : (BitVec.ofNat 8 (128 + total / 256)).toNat = 128 + total / 256 := by rw [BitVec.toNat_ofNat]; omega
  have hb1 : (BitVec.ofNat 8 total).toNat = total % 256 := BitVec.toNat_ofNat _ _
  exact ⟨_, _, longHeader_eq h, by omega, by omega⟩

/-! ### The parser's parts -/

theorem takeExact_eq_some_iff {n : Nat} {bs p rest : List Byte} :
    takeExact n bs = some (p, rest) ↔ bs = p ++ rest ∧ p.length = n := by
  induction n generalizing bs p with
  | zero =>
    rw [takeExact, Option.some_inj, Prod.mk.injEq, List.length_eq_zero_iff]
    constructor
    · rintro ⟨rfl, rfl⟩; exact ⟨rfl, rfl⟩
    · rintro ⟨rfl, rfl⟩; exact ⟨rfl, rfl⟩
  | succ n ih =>
    cases bs with
    | nil => cases p <;> simp [takeExact]
    | cons b bs =>
      cases p with
      | nil => simp only [takeExact]; split <;> simp
      | cons a p =>
        have hrest := ih (bs := bs) (p := p)
        simp only [takeExact, List.cons_append, List.cons.injEq, List.length_cons, Nat.add_right_cancel_iff]
        split
        · next p' rest' h => rw [h] at hrest; simp_all [and_assoc]
        · next h => rw [h] at hrest; simp_all

/-- The body after a size field is command, payload of the length said, and the fold of all before (R49 to R52). -/
theorem readBody_eq_ok_iff {header bs p rest : List Byte} {total : Nat} {c k : Byte} :
    readBody header total bs = .ok ((c, p, k), rest) ↔
      bs = c :: p ++ k :: rest ∧ p.length = total - 1 ∧ xorFold (header ++ c :: p) = k := by
  cases bs with
  | nil => simp [readBody]
  | cons b bs =>
    simp only [readBody]
    constructor
    · intro h
      split at h
      · next p' k' rest' htake =>
        obtain ⟨rfl, hlen⟩ := takeExact_eq_some_iff.1 htake
        split at h
        · next hk => cases h; exact ⟨rfl, hlen, hk⟩
        · cases h
      · cases h
    · rintro ⟨hbs, hlen, hk⟩
      rw [List.cons_append, List.cons.injEq] at hbs
      obtain ⟨rfl, rfl⟩ := hbs
      rw [takeExact_eq_some_iff.2 ⟨rfl, hlen⟩]
      exact if_pos hk

/-- A wire item that begins with a short size byte. -/
theorem decodeItem_short_eq_ok_iff {b : Byte} (h0 : b ≠ 0) (hb : b.toNat < 128) {bs rest : List Byte} {i : Instr} :
    decodeItem (b :: bs) = .ok (i, rest) ↔
      ∃ c p k, i = .itemFrameShort c p k ∧ readBody [b] b.toNat bs = .ok ((c, p, k), rest) := by
  have hlow : (low7 b).toNat = b.toNat := by rw [low7_toNat]; omega
  simp only [decodeItem, classifyByte_size_short h0 hb, hlow]
  constructor
  · intro h
    split at h
    · next c p k rest' hbody => cases h; exact ⟨c, p, k, rfl, hbody⟩
    · cases h
  · rintro ⟨c, p, k, rfl, hbody⟩
    rw [hbody]

/-- A wire item that begins with a long size field: a total length of zero is none (R57). -/
theorem decodeItem_long_eq_ok_iff {b0 b1 : Byte} (hb : 128 ≤ b0.toNat) {bs rest : List Byte} {i : Instr} :
    decodeItem (b0 :: b1 :: bs) = .ok (i, rest) ↔
      ∃ c p k, i = .itemFrameLong c p k ∧ (b0.toNat - 128) * 256 + b1.toNat ≠ 0 ∧
        readBody [b0, b1] ((b0.toNat - 128) * 256 + b1.toNat) bs = .ok ((c, p, k), rest) := by
  have hlt := b0.isLt
  have hlow : (low7 b0).toNat = b0.toNat - 128 := by rw [low7_toNat]; omega
  simp only [decodeItem, classifyByte_size_long hb, hlow]
  constructor
  · intro h
    split at h
    · cases h
    · next hz =>
      split at h
      · next c p k rest' hbody => cases h; exact ⟨c, p, k, rfl, hz, hbody⟩
      · cases h
  · rintro ⟨c, p, k, rfl, hz, hbody⟩
    rw [if_neg hz, hbody]

/-! ### The parser and the bytes of an item -/

/-- The operations that are whole wire items (R45). -/
inductive WireItem : Instr → Prop
  | sentinel : WireItem .itemSentinel
  | short (c : Byte) (p : List Byte) (k : Byte) : WireItem (.itemFrameShort c p k)
  | long (c : Byte) (p : List Byte) (k : Byte) : WireItem (.itemFrameLong c p k)

theorem wf_itemFrameShort_iff {cfg : Config} {c k : Byte} {p : List Byte} :
    (Instr.itemFrameShort c p k).wf cfg = true ↔
      p.length + 1 ≤ 127 ∧ xorFold (shortHeader (p.length + 1) ++ c :: p) = k := by
  rw [Instr.wf, Bool.and_eq_true, decide_eq_true_iff, foldsToZero_iff, xorFold_append_checksum]
  refine and_congr_right fun hlen => ?_
  have hhead := frameHeader_short hlen
  rw [frameHeader, if_pos hlen] at hhead
  rw [hhead, List.singleton_append]

theorem wf_itemFrameLong_iff {cfg : Config} {c k : Byte} {p : List Byte} :
    (Instr.itemFrameLong c p k).wf cfg = true ↔
      p.length + 1 ≤ Config.maxTotalLen ∧ xorFold (longHeader (p.length + 1) ++ c :: p) = k := by
  rw [Instr.wf, Bool.and_eq_true, decide_eq_true_iff, foldsToZero_iff, xorFold_append_checksum]
  refine and_congr_right fun hlen => ?_
  rw [longHeader_eq (Nat.lt_of_le_of_lt hlen (by decide))]
  rfl

/-- What the parser takes off the front is a well-formed item, byte for byte. -/
theorem decodeItem_ok {cfg : Config} {bs rest : List Byte} {i : Instr} (h : decodeItem bs = .ok (i, rest)) :
    bs = itemBytes i ++ rest ∧ WireItem i ∧ i.wf cfg = true := by
  match bs with
  | [] => cases h
  | b0 :: bs =>
    by_cases h0 : b0 = 0
    · subst h0; cases h; exact ⟨rfl, .sentinel, rfl⟩
    by_cases hb : b0.toNat < 128
    · obtain ⟨c, p, k, rfl, hbody⟩ := (decodeItem_short_eq_ok_iff h0 hb).1 h
      obtain ⟨rfl, hlen, hk⟩ := readBody_eq_ok_iff.1 hbody
      have hpos : b0.toNat ≠ 0 := fun e => h0 (BitVec.eq_of_toNat_eq e)
      have hhead : shortHeader (p.length + 1) = [b0] := by
        rw [show p.length + 1 = b0.toNat by omega, shortHeader_toNat hb]
      exact ⟨by simp [itemBytes, hhead], .short c p k, wf_itemFrameShort_iff.2 ⟨by omega, by rw [hhead]; exact hk⟩⟩
    · have hb : 128 ≤ b0.toNat := not_lt.1 hb
      match bs with
      | [] => rw [decodeItem.eq_def] at h; simp only [classifyByte_size_long hb] at h; cases h
      | b1 :: bs =>
        obtain ⟨c, p, k, rfl, hz, hbody⟩ := (decodeItem_long_eq_ok_iff hb).1 h
        obtain ⟨rfl, hlen, hk⟩ := readBody_eq_ok_iff.1 hbody
        have hlt0 := b0.isLt
        have hlt1 := b1.isLt
        have hhead : longHeader (p.length + 1) = [b0, b1] := by
          rw [show p.length + 1 = (b0.toNat - 128) * 256 + b1.toNat by omega, longHeader_toNat hb]
        exact ⟨by simp [itemBytes, hhead], .long c p k,
          wf_itemFrameLong_iff.2 ⟨by simp only [Config.maxTotalLen]; omega, by rw [hhead]; exact hk⟩⟩

/-- The parser takes a well-formed item's bytes off the front of any list. -/
theorem decodeItem_itemBytes {cfg : Config} {i : Instr} (hi : WireItem i) (hwf : i.wf cfg = true) (rest : List Byte) :
    decodeItem (itemBytes i ++ rest) = .ok (i, rest) := by
  cases hi with
  | sentinel => rfl
  | short c p k =>
    obtain ⟨hlen, hk⟩ := wf_itemFrameShort_iff.1 hwf
    obtain ⟨b, hhead, h0, hb⟩ := shortHeader_spec (Nat.le_add_left 1 p.length) hlen
    rw [hhead] at hk
    have hbytes : itemBytes (.itemFrameShort c p k) ++ rest = b :: (c :: p ++ k :: rest) := by simp [itemBytes, hhead]
    rw [hbytes, decodeItem_short_eq_ok_iff h0 (by omega)]
    exact ⟨c, p, k, rfl, readBody_eq_ok_iff.2 ⟨rfl, by omega, hk⟩⟩
  | long c p k =>
    obtain ⟨hlen, hk⟩ := wf_itemFrameLong_iff.1 hwf
    obtain ⟨b0, b1, hhead, hb, htotal⟩ := longHeader_spec (Nat.lt_of_le_of_lt hlen (by decide))
    rw [hhead] at hk
    have hbytes : itemBytes (.itemFrameLong c p k) ++ rest = b0 :: b1 :: (c :: p ++ k :: rest) := by
      simp [itemBytes, hhead]
    rw [hbytes, decodeItem_long_eq_ok_iff hb]
    exact ⟨c, p, k, rfl, by omega, readBody_eq_ok_iff.2 ⟨rfl, by omega, hk⟩⟩

theorem decodeWire_eq_ok_iff {bs : List Byte} {i : Instr} : decodeWire bs = .ok i ↔ decodeItem bs = .ok (i, []) := by
  unfold decodeWire
  constructor
  · intro h
    split at h
    · next h' => cases h; exact h'
    · cases h
    · cases h
  · intro h
    rw [h]

/-- Settles O7. The parser's inversion, with nothing left over. -/
theorem decodedItemIsItsBytes : Obligations.DecodedItemIsItsBytes := by
  unfold Obligations.DecodedItemIsItsBytes
  intro cfg bs i h
  obtain ⟨hbs, -, hwf⟩ := decodeItem_ok (cfg := cfg) (decodeWire_eq_ok_iff.1 h)
  exact ⟨by rw [hbs, List.append_nil], hwf⟩

/-! ### Every encoded form -/

theorem decodeWire_itemBytes {cfg : Config} {i : Instr} (hi : WireItem i) (hwf : i.wf cfg = true) :
    decodeWire (itemBytes i) = .ok i :=
  decodeWire_eq_ok_iff.2 (by rw [← decodeItem_itemBytes hi hwf [], List.append_nil])

/-- A first size byte with its class bit in front (R53). -/
theorem sizeByte_toNat (b : BitVec 1) (l : BitVec 7) : ((b ++ l).cast rfl : Byte).toNat = b.toNat * 128 + l.toNat := by
  rw [BitVec.cast_eq, BitVec.toNat_append, ← Nat.shiftLeft_add_eq_or_of_lt l.isLt, Nat.shiftLeft_eq]

theorem classifyByte_shortSize {l : BitVec 7} (h0 : l ≠ 0) :
    classifyByte .size ((0#1 ++ l).cast rfl) = .sizeShort l := by
  have hb : ((0#1 ++ l).cast rfl : Byte).toNat = l.toNat := by rw [sizeByte_toNat]; simp
  have hlt := l.isLt
  rw [classifyByte_size_short _ (by omega)]
  · congr 1; apply BitVec.eq_of_toNat_eq; rw [low7_toNat, hb]; omega
  · intro e; rw [e] at hb; exact h0 (BitVec.eq_of_toNat_eq hb.symm)

theorem classifyByte_longSize (h : BitVec 7) : classifyByte .size ((1#1 ++ h).cast rfl) = .sizeLong h := by
  have hb : ((1#1 ++ h).cast rfl : Byte).toNat = 128 + h.toNat := by rw [sizeByte_toNat]; simp
  have hlt := h.isLt
  rw [classifyByte_size_long (by omega)]
  congr 1; apply BitVec.eq_of_toNat_eq; rw [low7_toNat, hb]; omega

theorem nodup_of_valid {cfg : Config} (h : cfg.valid = true) : cfg.deviceIds.Nodup := by
  simp only [Config.valid, Bool.and_eq_true, decide_eq_true_eq] at h
  exact h.1.1

/-- The row of an identifier, where the identifiers are pairwise distinct (R4 (a), R55, R59). -/
theorem decodeCommand_of_id {cfg : Config} (h : cfg.deviceIds.Nodup) (p : List Byte) :
    decodeCommand cfg cfg.cmdVersionReply p = .cmdVersionReply p ∧
    decodeCommand cfg cfg.cmdBufferSeg p = .cmdBufferSeg p ∧
    decodeCommand cfg cfg.cmdParametersReply p = .cmdParametersReply p ∧
    decodeCommand cfg cfg.cmdConstantsReply p = .cmdConstantsReply p ∧
    decodeCommand cfg cfg.cmdScratchpadReply p = .cmdScratchpadReply p ∧
    decodeCommand cfg cfg.cmdPwm1Reply p = .cmdPwm1Reply p ∧
    decodeCommand cfg cfg.cmdPong p = .cmdPong p ∧
    decodeCommand cfg cfg.cmdError p = .cmdError p := by
  have hne := deviceIds_ne h
  unfold decodeCommand
  simp [hne, Ne.symm]

theorem decodeCommand_unknown {cfg : Config} {c : Byte} (h : c ∉ cfg.deviceIds) (p : List Byte) :
    decodeCommand cfg c p = .cmdUnknown c p := by
  simp only [Config.deviceIds, List.mem_cons, List.not_mem_nil, or_false, not_or] at h
  simp only [decodeCommand, h, if_false]

/-- Settles O6. Per form: the parser takes an item's bytes, a size byte's class bit gives its row, a port code and an identifier
name one operation each; the operations of no form have no code. -/
theorem encodedInstructionDecodes : Obligations.EncodedInstructionDecodes := by
  unfold Obligations.EncodedInstructionDecodes
  intro cfg i w hvalid hwf hw
  have hid := decodeCommand_of_id (nodup_of_valid hvalid)
  cases i <;> simp only [encode, reduceCtorEq, Option.some.injEq] at hw <;> subst hw
  case itemSentinel => exact decodeWire_itemBytes .sentinel hwf
  case itemFrameShort c p k => exact decodeWire_itemBytes (.short c p k) hwf
  case itemFrameLong c p k => exact decodeWire_itemBytes (.long c p k) hwf
  case decSizeShort l =>
    have h0 : l ≠ 0 := by rwa [Instr.wf, bne_iff_ne] at hwf
    rw [decode, classifyByte_shortSize h0, ByteClass.instr]
  case decSizeLong h => rw [decode, classifyByte_longSize, ByteClass.instr]
  case cmdUnknown c p => rw [decode, decodeCommand_unknown (of_decide_eq_true hwf)]
  case cmdVersionReply p | cmdBufferSeg p | cmdParametersReply p | cmdConstantsReply p | cmdScratchpadReply p |
      cmdPwm1Reply p | cmdPong p | cmdError p =>
    simp only [decode, hid]
  all_goals rfl

end Sys2Proof
end

section
/-! The state after reset and the machine's configuration (10_state.md sections 1, 5; 00_scope.md R4), and what one step does with each
kind of item the environment presents (00_scope.md R2, R3). -/

namespace Sys2Proof
namespace Machine

open Sys2Proof.Safety

/-! ### Reset -/

/-- Settles O1. The reset state is written out with these values. -/
theorem resetLeavesTheListedValues : Obligations.ResetLeavesTheListedValues := by
  unfold Obligations.ResetLeavesTheListedValues
  exact ⟨rfl, rfl, rfl, rfl, rfl, fun _ => rfl, rfl, rfl, rfl, rfl, rfl, rfl, rfl, rfl, rfl, rfl, rfl, rfl⟩

/-- Settles O2. Nothing is received, requested or cached. -/
theorem resetSatisfiesTheInvariants : Obligations.ResetSatisfiesTheInvariants := by
  unfold Obligations.ResetSatisfiesTheInvariants
  have hdec : decInv State.reset.dec := decInv_reset (d := DecState.reset) rfl
  have hlink : linkInv State.reset.link := ⟨fun h => h, rfl⟩
  exact ⟨⟨hdec, hlink⟩, fun _ => rfl⟩

/-! ### The machine's configuration -/

/-- T0 satisfies R4, whatever `DecodeConstants` is. -/
theorem t0_valid (f : List Byte → Option (Nat × Nat × Nat)) : (Config.t0 f).valid = true := by
  simp [Config.valid, Config.deviceIds, Config.t0]

/-- A raw choice that breaks R4 is replaced, so the machine's configuration never does (log entry 1). -/
theorem machine_valid : Config.machine.valid = true := by
  unfold Config.machine
  split
  · next h => exact h
  · exact t0_valid _

theorem machine_deviceIds_nodup : Config.machine.deviceIds.Nodup := nodup_of_valid machine_valid

/-- A byte that its own predecessor shares no bit with is a power of two: it has exactly one bit. -/
theorem exists_bit_of_and_sub_one {m : Byte} (h0 : m ≠ 0) (h : m &&& (m - 1) = 0) :
    ∃ i : Fin 8, ∀ j : Fin 8, m.getLsbD j = decide (j = i) := by
  have hpos : m.toNat ≠ 0 := fun e => h0 (BitVec.eq_of_toNat_eq e)
  have hlt := m.isLt
  have hsub : (m - 1).toNat = m.toNat - 1 := by rw [BitVec.toNat_sub]; simp; omega
  have hand : m.toNat &&& m.toNat - 1 = 0 := by rw [← hsub, ← BitVec.toNat_and, h]; rfl
  obtain ⟨n, hn⟩ := (Nat.and_sub_one_eq_zero_iff_isPowerOfTwo hpos).1 hand
  have hn8 : n < 8 := (Nat.pow_lt_pow_iff_right (by decide)).1 (hn ▸ hlt)
  refine ⟨⟨n, hn8⟩, fun j => ?_⟩
  rw [BitVec.getLsbD, hn, Nat.testBit_two_pow, decide_eq_decide, Fin.ext_iff, eq_comm]

/-- Settles O5. The three parts of R4, and the byte order both choices share. -/
theorem machineConfigurationIsValid : Obligations.MachineConfigurationIsValid := by
  unfold Obligations.MachineConfigurationIsValid
  have hvalid := machine_valid
  simp only [Config.valid, Bool.and_eq_true, decide_eq_true_eq, bne_iff_ne, beq_iff_eq] at hvalid
  obtain ⟨⟨hids, hmask0, hmask⟩, harm⟩ := hvalid
  exact ⟨hids, exists_bit_of_and_sub_one hmask0 hmask, harm, Config.machine_order⟩

/-! ### The words of the table -/

/-- A word of more than a byte that begins with the bytes of a well-formed item is that item (log entry 16). -/
theorem decodeTableWord_of_item {cfg : Config} {nbits w : Nat} {i : Instr} (hn : 8 < nbits) (hi : WireItem i)
    (hwf : i.wf cfg = true) (hw : (List.range (nbits / 8)).map (wordByte w) = itemBytes i) :
    decodeTableWord nbits w = some i := by
  rw [decodeTableWord, if_neg (by omega), wordBytes, hw, decodeItem_itemBytes hi hwf]

/-- Settles O8. The three longer words spell well-formed items, low byte first. -/
theorem tableWordsDecode : Obligations.TableWordsDecode := by
  unfold Obligations.TableWordsDecode
  refine ⟨rfl, rfl, rfl, rfl, ?pong, ?version, ?pongLong, rfl⟩
  case pong => exact decodeTableWord_of_item (cfg := Config.machine) (by decide) (.short 0x87 [] 0x86) (by decide) (by decide)
  case version =>
    exact decodeTableWord_of_item (cfg := Config.machine) (by decide) (.short 0x81 [0x04, 0x03] 0x85) (by decide) (by decide)
  case pongLong =>
    exact decodeTableWord_of_item (cfg := Config.machine) (by decide) (.long 0x87 [] 0x06) (by decide) (by decide)

/-! ### What a step does with each kind of item -/

/-- A wire item acts as the delivery of its bytes (log entry 15). -/
theorem exec_wireItem {i : Instr} (hi : WireItem i) (s : State) : exec i s = rxBatch Config.machine (itemBytes i) s := by
  cases hi <;> rfl

theorem step_of_nil {s : State} (h : s.env.input = []) : step s = .next s := by
  rw [step, h]

theorem step_byte {b : Byte} {rest : List PortItem} {s : State} (h : s.env.input = .byte b :: rest) :
    step s = rx Config.machine b (takeInput rest s) := by
  rw [step, h]; rfl

/-- Decoded as one item or not, a batch is the delivery of its bytes: an item's bytes are the batch's own. -/
theorem step_batch {bs : List Byte} {rest : List PortItem} {s : State} (h : s.env.input = .batch bs :: rest) :
    step s = rxBatch Config.machine bs (takeInput rest s) := by
  simp only [step, h, decodePort]
  split
  · next i hi =>
    obtain ⟨hbs, hitem, -⟩ := decodeItem_ok (cfg := Config.machine) (decodeWire_eq_ok_iff.1 hi)
    rw [exec_wireItem hitem, hbs, List.append_nil]
  · rfl

theorem step_host {code : BitVec 3} {o : HostOperands} {rest : List PortItem} {s : State}
    (h : s.env.input = .host code o :: rest) : step s = exec (decodeHost code o) (takeInput rest s) := by
  rw [step, h]; rfl

/-- Settles O10. Only a batch can be refused by the parser; it is then delivered byte by byte. -/
theorem stepRunsTheDecodedOperation : Obligations.StepRunsTheDecodedOperation := by
  unfold Obligations.StepRunsTheDecodedOperation
  intro s w rest
  refine ⟨step_of_nil, fun hin => ⟨fun i hi => ?decoded, fun e he => ?refused⟩⟩
  case decoded => simp only [step, hin, hi]; rfl
  case refused =>
    cases w with
    | byte b => cases he
    | batch bs => exact ⟨bs, rfl, step_batch hin⟩
    | host code o => cases he

/-! ### A step does not read what is presented after its item -/

/-- An outcome with the state it goes on to changed. -/
def mapNext {α β : Type} (f : α → β) : Host.Outcome α Fault Refusal → Host.Outcome β Fault Refusal
  | .next s => .next (f s)
  | .fault e => .fault e
  | .refused e => .refused e

theorem decStep_takeInput (b : Byte) (rest : List PortItem) (s : State) :
    decStep b (takeInput rest s) = mapNext (fun q => (q.1, takeInput rest q.2)) (decStep b s) := by
  unfold decStep
  change decArm (classifyByte s.dec.st b) (takeInput rest (foldAcc b s)) = _
  generalize foldAcc b s = s'
  cases classifyByte s.dec.st b with
  | sentinel | sizeShort | sizeLong => rfl
  | sizeLow l =>
    by_cases h : lenJoin s'.dec.rem l = 0 <;> simp only [decArm, decSizeLow, takeInput_dec, h, if_true, if_false] <;> rfl
  | command c =>
    by_cases h : s'.dec.rem = 0 <;> simp only [decArm, decCommand, takeInput_dec, h, if_true, if_false] <;> rfl
  | payload d =>
    by_cases h : s'.dec.rem = 0
    · simp only [decArm, decPayload, takeInput_dec, h, if_true]; rfl
    · simp only [decArm, decPayload, takeInput_dec, h, if_false]
      cases memWrite s'.dec.n.toNat d s'.dec.buf <;> rfl
  | checksum k =>
    by_cases h : checksumOk s'.dec.acc = true
    · simp only [decArm, decChecksum, takeInput_dec, h, if_true]
      cases memRead s'.dec.buf 0 s'.dec.n.toNat <;> rfl
    · simp only [decArm, decChecksum, takeInput_dec, h]; rfl

theorem afterFrame_takeInput (c : Byte) (p : List Byte) (rest : List PortItem) (s : State) :
    afterFrame c p (takeInput rest s) = takeInput rest (afterFrame c p s) := by
  have hdraw : ({ s.env with input := rest } : Env).afterFlush = { s.env.afterFlush with input := rest } := by
    simp only [Env.afterFlush]; split <;> rfl
  simp only [afterFrame, afterEmission, takeInput, hdraw]
  rfl

theorem startSampling_takeInput (cfg : Config) (rest : List PortItem) (s : State) :
    (startSampling cfg (takeInput rest s)).2 = takeInput rest (startSampling cfg s).2 := by
  simp only [startSampling_spec, afterFrame_takeInput]
  rfl

theorem bufferSegBranch_takeInput (cfg : Config) (rest : List PortItem) (s : State) :
    bufferSegBranch cfg (takeInput rest s) = takeInput rest (bufferSegBranch cfg s) := by
  simp only [bufferSegBranch, takeInput_link]
  split
  · rfl
  · by_cases hf : s.link.freeze = false
    · simp only [hf, if_true, startSampling_takeInput]
    · simp only [hf]; rfl

theorem pPong_takeInput (cfg : Config) (rest : List PortItem) (s : State) :
    pPong cfg (takeInput rest s) = takeInput rest (pPong cfg s) := by
  by_cases h : s.link.phase = .ping <;>
    simp only [pPong, takeInput_link, h, if_true, if_false, sendFrame_empty, afterFrame_takeInput] <;> rfl

theorem pVersion_takeInput (cfg : Config) (rest : List PortItem) (s : State) :
    pVersion cfg (takeInput rest s) = takeInput rest (pVersion cfg s) := by
  by_cases h : s.link.phase = .gettingVersion <;>
    simp only [pVersion, takeInput_link, h, if_true, if_false, sendFrame_empty, afterFrame_takeInput] <;> rfl

theorem pParameters_takeInput (cfg : Config) (rest : List PortItem) (s : State) :
    pParameters cfg (takeInput rest s) = takeInput rest (pParameters cfg s) := by
  by_cases h : s.link.phase = .gettingParameters
  · simp only [pParameters, takeInput_link, h, if_true, startSampling_takeInput]; rfl
  · simp only [pParameters, takeInput_link, h, if_false]

theorem pBufferSeg_takeInput (cfg : Config) (p : List Byte) (rest : List PortItem) (s : State) :
    pBufferSeg cfg p (takeInput rest s) = takeInput rest (pBufferSeg cfg p s) := by
  have hemit : emit [.onSampleFrame p] (takeInput rest s) = takeInput rest (emit [.onSampleFrame p] s) := rfl
  by_cases h : s.link.phase = .sampling
  · simp only [pBufferSeg, takeInput_link, h, if_true, hemit, bufferSegBranch_takeInput]; rfl
  · simp only [pBufferSeg, takeInput_link, h, if_false]; rfl

theorem parametersReply_takeInput (cfg : Config) (p : List Byte) (rest : List PortItem) (s : State) :
    parametersReply cfg p (takeInput rest s) = takeInput rest (parametersReply cfg p s) := by
  have hglobal : hParametersReply cfg p (takeInput rest s) =
      ((hParametersReply cfg p s).1, takeInput rest (hParametersReply cfg p s).2) := by
    by_cases h : p.length < 10 <;> simp only [hParametersReply, h, if_true, if_false] <;> rfl
  simp only [parametersReply, hglobal, pParameters_takeInput, apply_ite (takeInput rest)]

theorem versionReply_takeInput (cfg : Config) (p : List Byte) (rest : List PortItem) (s : State) :
    versionReply cfg p (takeInput rest s) = takeInput rest (versionReply cfg p s) := by
  have hglobal : hVersionReply cfg p (takeInput rest s) =
      ((hVersionReply cfg p s).1, takeInput rest (hVersionReply cfg p s).2) := by
    by_cases h : p.length < 2 <;> simp only [hVersionReply, h, if_true, if_false] <;> rfl
  simp only [versionReply, hglobal, pVersion_takeInput, apply_ite (takeInput rest)]

/-- No handler reads what the environment presents next. -/
theorem dispatch_takeInput (cfg : Config) (c : Byte) (p : List Byte) (rest : List PortItem) (s : State) :
    dispatch cfg c p (takeInput rest s) = takeInput rest (dispatch cfg c p s) := by
  unfold dispatch
  split_ifs
  · exact parametersReply_takeInput cfg p rest s
  · exact versionReply_takeInput cfg p rest s
  · exact pPong_takeInput cfg rest s
  · exact pBufferSeg_takeInput cfg p rest s
  · cases hd : cfg.decodeConstants p <;> simp only [hConstantsReply, hd] <;> rfl
  · by_cases h : p.length < 7 <;> simp only [hPwm1Reply, h, if_true, if_false] <;> rfl
  · rfl
  · rfl
  · rfl

/-- RX does not read what the environment presents next. -/
theorem rx_takeInput (cfg : Config) (b : Byte) (rest : List PortItem) (s : State) :
    rx cfg b (takeInput rest s) = mapNext (takeInput rest) (rx cfg b s) := by
  cases hu : s.link.up
  · simp only [rx, takeInput_link, hu, Bool.false_eq_true, if_false]; rfl
  · simp only [rx, takeInput_link, hu, if_true, decStep_takeInput]
    cases decStep b s with
    | fault f => rfl
    | refused f => rfl
    | next q =>
      obtain ⟨r, t⟩ := q
      have hdispatched : dispatched cfg r (takeInput rest t) = takeInput rest (dispatched cfg r t) := by
        cases r with
        | frame c p => exact dispatch_takeInput cfg c p rest t
        | _ => rfl
      simp only [mapNext, dispatchResult_next, hdispatched]
      rfl

/-- As many steps as bytes, on the bytes, are the delivery of the bytes. -/
theorem run_bytes (bs : List Byte) (rest : List PortItem) (s : State) :
    core.run bs.length (takeInput (bs.map .byte ++ rest) s) = rxBatch Config.machine bs (takeInput rest s) := by
  induction bs generalizing s with
  | nil => rfl
  | cons b bs ih =>
    have hstep : core.step (takeInput ((b :: bs).map .byte ++ rest) s) =
        mapNext (takeInput (bs.map .byte ++ rest)) (rx Config.machine b s) := by
      rw [← rx_takeInput]
      exact step_byte (b := b) (s := takeInput (.byte b :: (bs.map .byte ++ rest)) s) rfl
    simp only [List.length_cons, Host.Core.run, hstep, rxBatch, rx_takeInput]
    cases rx Config.machine b s with
    | next t => exact ih t
    | fault f => rfl
    | refused f => rfl

/-- Settles O11. Both sides are the delivery of the bytes. -/
theorem batchEqualsItsBytesInOrder : Obligations.BatchEqualsItsBytesInOrder := by
  unfold Obligations.BatchEqualsItsBytesInOrder
  intro s bs rest hin
  rw [step_batch hin]
  exact (run_bytes bs rest s).symm

end Machine
end Sys2Proof
end

section
/-! The Frame Encoder (41_frame_encoder.md): what its emissions leave, what every frame satisfies, and which bytes a flush makes known to
be delivered (20_memory.md R41). -/

namespace Sys2Proof
namespace Machine

open Sys2Proof.Safety

/-! ### The emissions -/

/-- The end of an operation that emits bytes and flushes: the flush's answer is the result (R84, R85). -/
theorem leave_emission (bs : List Byte) (s : State) :
    leave (flushResult (flushAnswer s), afterEmission bs s) = .next
      { afterEmission bs s with result := if flushAnswer s then .ok else .flushFailed } := rfl

theorem leave_sendFrame {p : List Byte} (hp : p.length ≤ 32766) (c : Byte) (s : State) :
    leave (sendFrame c p s) = .next
      { afterFrame c p s with result := if flushAnswer s then .ok else .flushFailed } := by
  rw [sendFrame_spec hp]; rfl

theorem leave_sendFrame_tooLong {p : List Byte} (hp : 32766 < p.length) (c : Byte) (s : State) :
    leave (sendFrame c p s) = .next
      { s with out := s.out ++ [.log .refused (.reason .encodeTooLong)], result := .refused } := by
  rw [sendFrame_tooLong hp]; rfl

/-- Settles O14. The send on both sides of the longest payload. -/
theorem encoderEmitsFrameAndFlushes : Obligations.EncoderEmitsFrameAndFlushes := by
  unfold Obligations.EncoderEmitsFrameAndFlushes
  intro c p s
  refine ⟨fun hp => ?_, fun hp => leave_sendFrame_tooLong hp c s⟩
  exact leave_sendFrame hp c s

/-- Settles O15. Both are an emission, of `n` zero bytes and of none. -/
theorem sentinelRunsAndFlushes : Obligations.SentinelRunsAndFlushes := by
  unfold Obligations.SentinelRunsAndFlushes
  intro n s
  refine ⟨?sentinels, ?flush⟩
  case sentinels =>
    calc
      exec (.encSentinel n) s = leave (sendSentinels n s) := rfl
      _ = leave (flushResult (flushAnswer s), afterEmission (List.replicate n 0) s) := by rw [sendSentinels_spec]
      _ = _ := by rw [leave_emission, ← List.map_replicate (f := Event.txByte)]; rfl
  case flush =>
    calc
      exec .flush s = leave (flushOp s) := rfl
      _ = leave (flushResult (flushAnswer s), afterEmission [] s) := by rw [flushOp_spec]
      _ = _ := by rw [leave_emission]; simp only [afterEmission, List.map_nil, List.append_nil, flushEvents]

/-! ### Every frame -/

theorem frameBytes_eq (c : Byte) (p : List Byte) :
    frameBytes c p = frameHeader (p.length + 1) ++ c :: p ++ [xorFold (frameHeader (p.length + 1) ++ c :: p)] :=
  frameBytes_of_header rfl

theorem frameHeader_eq_short {total : Nat} (h : total ≤ 127) : frameHeader total = shortHeader total := if_pos h

theorem frameHeader_eq_long {total : Nat} (h : 127 < total) : frameHeader total = longHeader total := if_neg (by omega)

/-- The checksum closes the fold. -/
theorem xorFold_frameBytes (c : Byte) (p : List Byte) : xorFold (frameBytes c p) = 0 :=
  (xorFold_append_checksum _ _).2 rfl

/-- Settles O13. The canonical form: the long size field is used from a total length of 128 on, so its low byte is at least 0x80
where its high part is zero. -/
theorem encodedFramesFoldToZero : Obligations.EncodedFramesFoldToZero := by
  unfold Obligations.EncodedFramesFoldToZero
  intro c p hp
  refine ⟨xorFold_frameBytes c p, ?_⟩
  by_cases hs : p.length ≤ 126
  · obtain ⟨b, hhead, h0, hb⟩ := shortHeader_spec (total := p.length + 1) (by omega) (by omega)
    rw [frameBytes_eq, frameHeader_eq_short (by omega), hhead, if_pos hs]
    exact ⟨⟨b, c, _, rfl, h0, fun e => by rw [e] at hb; simp at hb; omega, by omega⟩, by simp⟩
  · obtain ⟨b0, b1, hhead, hb, htotal⟩ := longHeader_spec (total := p.length + 1) (by omega)
    have h0 : b0 ≠ 0 := by rintro rfl; simp at hb
    have hlow : b0 = 0x80 → 0x80 ≤ b1.toNat := by rintro rfl; simp at htotal; omega
    rw [frameBytes_eq, frameHeader_eq_long (by omega), hhead, if_neg hs]
    exact ⟨⟨b0, b1, _, rfl, h0, hlow, by omega⟩, by simp⟩

/-! ### What the trace says of the wire -/

@[simp] theorem txBytes_append (es fs : List Event) : txBytes (es ++ fs) = txBytes es ++ txBytes fs := by
  fun_induction txBytes es <;> simp_all [txBytes]

@[simp] theorem txBytes_map_txByte (bs : List Byte) : txBytes (bs.map .txByte) = bs := by
  induction bs with
  | nil => rfl
  | cons b bs ih => rw [List.map_cons, txBytes, ih]

@[simp] theorem txBytes_flushEvents (ok : Bool) : txBytes (flushEvents ok) = [] := by cases ok <;> rfl

@[simp] theorem sampleFrames_append (es fs : List Event) :
    sampleFrames (es ++ fs) = sampleFrames es ++ sampleFrames fs := by
  fun_induction sampleFrames es <;> simp_all [sampleFrames]

@[simp] theorem sampleFrames_map_txByte (bs : List Byte) : sampleFrames (bs.map .txByte) = [] := by
  induction bs with
  | nil => rfl
  | cons b bs ih => simpa [sampleFrames] using ih

@[simp] theorem sampleFrames_flushEvents (ok : Bool) : sampleFrames (flushEvents ok) = [] := by cases ok <;> rfl

/-- A flush not followed by its failure's log event makes all bytes so far known. -/
theorem knownDelivered_txFlush {es : List Event} (h : ∀ info fs, es ≠ .log .transportFlush info :: fs)
    (seen known : List Byte) : knownDelivered seen known (.txFlush :: es) = knownDelivered seen seen es := by
  rw [knownDelivered.eq_def]
  split
  · simp_all
  · simp_all
  · next h' => cases h'; exact absurd rfl (h _ _)
  · next h' => cases h'; rfl
  · simp_all

/-- From a flush on, the trace is read with the bytes seen and those known of what stands before it. -/
theorem knownDelivered_append (seen known : List Byte) (es fs : List Event) :
    knownDelivered seen known (es ++ .txFlush :: fs) =
      knownDelivered (seen ++ txBytes es) (knownDelivered seen known es) (.txFlush :: fs) := by
  fun_induction knownDelivered seen known es
  case case1 seen known => simp [txBytes]
  case case2 seen known b es ih => simp only [List.cons_append, knownDelivered, ih, txBytes, List.append_assoc, List.nil_append]
  case case3 seen known info es ih => simp only [List.cons_append, knownDelivered, ih, txBytes]
  case case4 seen known es h ih =>
    have hhead : ∀ info gs, es ++ .txFlush :: fs ≠ .log .transportFlush info :: gs := by
      cases es with
      | nil => simp
      | cons e es => intro info gs e'; cases e'; exact h info es rfl
    rw [List.cons_append, knownDelivered_txFlush hhead, ih, txBytes]
    simp
  case case5 seen known e es hbyte hfail hflush ih =>
    cases e with
    | txByte b => exact absurd rfl (hbyte b)
    | txFlush => exact absurd rfl hflush
    | _ => simp only [List.cons_append, knownDelivered, ih, txBytes]

theorem exec_flush (s : State) :
    exec .flush s = .next { afterEmission [] s with result := flushResult (flushAnswer s) } := by
  change leave (flushOp s) = _
  rw [flushOp_spec]; rfl

/-- Settles O16. The trace ends with the flush's own events, which are read with what the trace before says. -/
theorem flushDeliversWhatPrecedesIt : Obligations.FlushDeliversWhatPrecedesIt := by
  unfold Obligations.FlushDeliversWhatPrecedesIt
  intro s
  have hbytes : txBytes (afterEmission [] s).out = txBytes s.out := by simp
  refine ⟨fun h => ⟨_, exec_flush s, ?succeeds, hbytes⟩, fun h => ⟨_, exec_flush s, ?fails, hbytes⟩⟩
  case succeeds =>
    have hout : (afterEmission [] s).out = s.out ++ [.txFlush] := by simp [h, flushEvents]
    rw [hout, knownDelivered_append]; simp [knownDelivered]
  case fails =>
    have hout : (afterEmission [] s).out = s.out ++ [.txFlush, .log .transportFlush .none] := by simp [h, flushEvents]
    rw [hout, knownDelivered_append]; simp [knownDelivered]

end Machine
end Sys2Proof
end

section
/-! The Frame Decoder byte by byte (40_frame_decoder.md): the arms that end a length or a frame, RX as fold, arm and dispatch, the
transition table of `dec.st`, and what of the payload buffer a byte writes and reads (20_memory.md R31). -/

namespace Sys2Proof
namespace Machine

open Sys2Proof.Safety

/-! ### The arms by themselves -/

/-- Settles O18. The buffer is the one field that the reset does not write. -/
theorem decResetClearsAllButTheBuffer : Obligations.DecResetClearsAllButTheBuffer := by
  unfold Obligations.DecResetClearsAllButTheBuffer
  intro s
  exact ⟨_, rfl, rfl, rfl, rfl, rfl, rfl, rfl, fun _ => rfl⟩

/-- DEC.SIZE_LOW where the two parts of the length are zero (R70). -/
theorem exec_decSizeLow_zero {l : Byte} {s : State} (h : lenJoin s.dec.rem l = 0) :
    exec (.decSizeLow l) s = .next { s with
      dec := { DecState.reset with buf := s.dec.buf }
      out := s.out ++ [.log .framingLength .none]
      result := .err .length } := by
  simp only [exec, execDecSizeLow, decSizeLow, if_pos h]; rfl

/-- DEC.SIZE_LOW where the length is not zero (R70). -/
theorem exec_decSizeLow {l : Byte} {s : State} (h : lenJoin s.dec.rem l ≠ 0) :
    exec (.decSizeLow l) s = .next { s with
      dec := { s.dec with rem := lenJoin s.dec.rem l, st := .command }, result := .noFrame } := by
  simp only [exec, execDecSizeLow, decSizeLow, if_neg h]; rfl

/-- A size field's joined length is zero exactly when both its parts are. -/
theorem lenJoin_eq_zero_iff {r : U15} (h : r.toNat % 256 = 0) (l : Byte) : lenJoin r l = 0 ↔ r.toNat + l.toNat = 0 := by
  rw [← lenJoin_toNat h, ← BitVec.toNat_inj]; rfl

/-- Settles O20. The joined length, as a number, decides between the error and the command. -/
theorem lowSizeByteCompletesTheLength : Obligations.LowSizeByteCompletesTheLength := by
  unfold Obligations.LowSizeByteCompletesTheLength
  intro l s
  refine ⟨fun hr h0 => ?zero, fun hr h0 => ?joined, ?goesOn⟩
  case zero => exact exec_decSizeLow_zero ((lenJoin_eq_zero_iff hr l).2 h0)
  case joined => exact ⟨_, exec_decSizeLow (fun e => h0 ((lenJoin_eq_zero_iff hr l).1 e)), lenJoin_toNat hr l, rfl⟩
  case goesOn =>
    by_cases h : lenJoin s.dec.rem l = 0
    · exact ⟨_, exec_decSizeLow_zero h⟩
    · exact ⟨_, exec_decSizeLow h⟩

/-- DEC.CHECKSUM of a frame that folds to zero (R73). -/
theorem exec_decChecksum_ok {k : Byte} {s : State} {p : List Byte} (h : s.dec.acc = 0)
    (hp : memRead s.dec.buf 0 s.dec.n.toNat = .ok p) :
    exec (.decChecksum k) s = .next { s with
      dec := { DecState.reset with buf := s.dec.buf }, result := .frame s.dec.cmd p } := by
  simp only [exec, execDecChecksum, decChecksum, checksumOk, h, hp]; rfl

/-- DEC.CHECKSUM of a frame that does not (R73). -/
theorem exec_decChecksum_bad {k : Byte} {s : State} (h : s.dec.acc ≠ 0) :
    exec (.decChecksum k) s = .next { s with
      dec := { DecState.reset with buf := s.dec.buf }
      out := s.out ++ [.log .framingChecksum (.byte s.dec.acc)]
      result := .err .checksum } := by
  have hsum : checksumOk s.dec.acc = false := by simpa [checksumOk] using h
  simp only [exec, execDecChecksum, decChecksum, hsum]; rfl

/-- Settles O23. The payload is what the read of the buffer answers. -/
theorem checksumByteEndsTheFrame : Obligations.ChecksumByteEndsTheFrame := by
  unfold Obligations.ChecksumByteEndsTheFrame
  intro k s
  refine ⟨fun hacc hn => ?frame, exec_decChecksum_bad⟩
  case frame =>
    obtain ⟨p, hp⟩ := memRead_inside s.dec.buf (a := 0) (n := s.dec.n.toNat) (by simpa [Config.bufCap] using hn)
    obtain ⟨hlen, hread⟩ := memRead_ok hp
    exact ⟨p, hlen, fun i hi => by simpa using hread i hi, exec_decChecksum_ok hacc hp⟩

/-! ### Where the arms stop -/

/-- A read that runs past the buffer stops at the first index that is no address of it (20_memory.md R30). -/
theorem memRead_outside (m : List Host.Cell) {a n : Nat} (ha : a ≤ Config.bufCap) (h : Config.bufCap < a + n) :
    memRead m a n = .error (.bufferRange Config.bufCap) := by
  induction n generalizing a with
  | zero => omega
  | succ n ih =>
    by_cases hin : a < Config.bufCap
    · rw [memRead, if_pos hin, ih hin (by omega)]
    · rw [memRead, if_neg hin, show a = Config.bufCap by omega]

/-- Settles O24. The counter is tested before the write, and the sum before the read. -/
theorem decoderStopsOutsideItsRange : Obligations.DecoderStopsOutsideItsRange := by
  unfold Obligations.DecoderStopsOutsideItsRange
  intro b s
  refine ⟨fun hrem => ?underflow, fun hrem hn => ?write, fun hacc hn => ?read⟩
  case underflow =>
    have h0 : s.dec.rem = 0 := BitVec.eq_of_toNat_eq hrem
    constructor
    · simp only [exec, execDecCommand, decCommand, if_pos h0, finish]
    · simp only [exec, execDecPayload, decPayload, if_pos h0, finish]
  case write =>
    have hw : memWrite s.dec.n.toNat b s.dec.buf = none := if_neg (not_lt.2 hn)
    simp only [exec, execDecPayload, decPayload, if_neg (ne_zero_of_one_le_toNat hrem), hw, finish]
  case read =>
    have hr : memRead s.dec.buf 0 s.dec.n.toNat = .error (.bufferRange 32766) :=
      memRead_outside _ (Nat.zero_le _) (by simpa [Config.bufCap] using hn)
    simp only [exec, execDecChecksum, decChecksum, checksumOk, hacc, hr]; rfl

/-! ### RX is fold, arm, dispatch -/

theorem exec_classInstr (c : ByteClass) (s : State) : exec c.instr s = finish (decArm c s) := by
  cases c <;> rfl

theorem rx_of_up {cfg : Config} {s : State} (hu : s.link.up = true) (b : Byte) :
    rx cfg b s = finish (dispatchResult cfg (decArm (classifyByte s.dec.st b) (foldAcc b s))) := if_pos hu

theorem finish_eq_next {o : Host.Outcome Ret Fault Refusal} {t : State} (h : finish o = .next t) :
    ∃ r t', o = .next (r, t') ∧ t = { t' with result := r } := by
  cases o with
  | next q => obtain ⟨r, t'⟩ := q; cases h; exact ⟨r, t', rfl, rfl⟩
  | fault f => cases h
  | refused f => cases h

theorem finish_eq_fault {o : Host.Outcome Ret Fault Refusal} {f : Fault} (h : finish o = .fault f) : o = .fault f := by
  cases o with
  | next q => cases h
  | fault f' => cases h; rfl
  | refused f' => cases h

theorem dispatched_of_no_frame {cfg : Config} {r : Result} {s : State} (h : ∀ c p, r ≠ .frame c p) :
    dispatched cfg r s = s := by
  cases r with
  | frame c p => exact absurd rfl (h c p)
  | _ => rfl

theorem exec_dispatch (c : Byte) (p : List Byte) (s : State) :
    exec (.dispatch c p) s = .next { dispatch Config.machine c p s with result := .none } := rfl

/-- Settles O25. The arm's outcome decides what the dispatch adds; no handler reads the result that the arm leaves. -/
theorem rxFoldsThenRunsTheArm : Obligations.RxFoldsThenRunsTheArm := by
  unfold Obligations.RxFoldsThenRunsTheArm
  intro b s hu
  change (∀ t, exec (classifyByte s.dec.st b).instr (foldAcc b s) = .next t → _) ∧
    ∀ f, exec (classifyByte s.dec.st b).instr (foldAcc b s) = .fault f → _
  rw [exec_classInstr]
  refine ⟨fun t ht => ?goesOn, fun f hf => ?faults⟩
  case goesOn =>
    obtain ⟨r, t, harm, rfl⟩ := finish_eq_next ht
    have hrx : exec (.rx b) s = .next { dispatched Config.machine r t with result := r } := rx_of_decStep hu harm
    refine ⟨fun hno => ?_, fun c p hframe => ⟨_, exec_dispatch c p _, ?_⟩⟩
    · rw [hrx, dispatched_of_no_frame hno]
    · obtain rfl : r = .frame c p := hframe
      rw [hrx, dispatch_withResult]; rfl
  case faults =>
    have harm := finish_eq_fault hf
    change rx Config.machine b s = _
    rw [rx_of_up hu, harm]; rfl

/-! ### The transition table -/

/-- RX under the decoder's invariant, by the sub-state before it: a completed frame's dispatch leaves the decoder alone. -/
theorem rx_effect {s : State} (cfg : Config) (b : Byte) (hu : s.link.up = true) (hi : decInv s.dec) :
    ∃ t, rx cfg b s = .next t ∧ ByteEffect b s.dec t.result t.dec := by
  obtain ⟨r, t, hstep, -, heffect, -, -⟩ := decStep_spec b s hi
  obtain ⟨hdec, -⟩ := dispatched_handlerFrame cfg r t
  exact ⟨_, rx_of_decStep hu hstep, by rwa [← hdec] at heffect⟩

/-- Settles O26. The rows are read off the byte's effect in each sub-state. -/
theorem byteTransitionsFollowTheTable : Obligations.ByteTransitionsFollowTheTable := by
  unfold Obligations.ByteTransitionsFollowTheTable
  intro b s hu hi
  obtain ⟨t, hrx, heffect⟩ := rx_effect Config.machine b hu hi
  refine ⟨t, hrx, ?_⟩
  cases hst : s.dec.st <;> simp only [ByteEffect, hst] at heffect ⊢
  case size =>
    obtain ⟨hr, -, hzero, hsize⟩ := heffect
    refine ⟨hr, ?_⟩
    by_cases h0 : b = 0
    · rw [if_pos h0, hzero h0, hst]
    · obtain ⟨-, -, -, hshort, hlong⟩ := hsize h0
      rw [if_neg h0]
      split
      · next hb => exact (hshort hb).1
      · next hb => exact (hlong (not_lt.1 hb)).1
  case sizeHigh =>
    obtain ⟨-, hzero, hjoined⟩ := heffect
    split
    · next h0 =>
      obtain ⟨hdec, hr⟩ := hzero h0
      exact ⟨by rw [hdec]; rfl, hr⟩
    · next h0 =>
      obtain ⟨hr, hst', -⟩ := hjoined h0
      exact ⟨hst', hr⟩
  case command =>
    obtain ⟨hr, -, hst', -⟩ := heffect
    exact ⟨hr, hst'⟩
  case payload =>
    obtain ⟨hr, hst', -⟩ := heffect
    exact ⟨hr, hst'⟩
  case checksum =>
    obtain ⟨hdec, hframe, hbad⟩ := heffect
    exact ⟨by rw [hdec]; rfl, hframe, hbad⟩

/-! ### The payload buffer -/

theorem classifyByte_eq_payload {st : SubState} {b d : Byte} (h : classifyByte st b = .payload d) :
    st = .payload ∧ b = d := by
  cases st <;> simp only [classifyByte] at h
  case size => split_ifs at h
  case payload => cases h; exact ⟨rfl, rfl⟩
  all_goals cases h

/-- An arm that goes on writes the decoder and the trace, and of the buffer nothing, unless it is the payload's, which stores its byte
at the fill count. -/
theorem decArm_next {c : ByteClass} {s t : State} {r : Result} (h : decArm c s = .next (r, t)) :
    t = { s with dec := t.dec, out := t.out } ∧
      (t.dec.buf = s.dec.buf ∨ ∃ d, c = .payload d ∧ memWrite s.dec.n.toNat d s.dec.buf = some t.dec.buf) := by
  cases c with
  | sentinel | sizeShort | sizeLong => cases h; exact ⟨rfl, .inl rfl⟩
  | sizeLow l => simp only [decArm, decSizeLow] at h; split at h <;> cases h <;> exact ⟨rfl, .inl rfl⟩
  | command c => simp only [decArm, decCommand] at h; split at h <;> cases h; exact ⟨rfl, .inl rfl⟩
  | payload d =>
    simp only [decArm, decPayload] at h
    split at h
    · cases h
    · split at h
      · cases h
      · next buf hw => cases h; exact ⟨rfl, .inr ⟨d, rfl, hw⟩⟩
  | checksum k =>
    simp only [decArm, decChecksum] at h
    split at h
    · split at h <;> cases h; exact ⟨rfl, .inl rfl⟩
    · cases h; exact ⟨rfl, .inl rfl⟩

/-- An arm sees the buffer below the fill count only: over another buffer with the same bytes there it goes on alike, to a buffer
with the same bytes below the new fill count. -/
theorem decArm_withBuf {c : ByteClass} {s t : State} {r : Result} {buf : List Host.Cell}
    (h : decArm c s = .next (r, t)) (hb : ∀ a, a < s.dec.n.toNat → readByte a buf = readByte a s.dec.buf) :
    ∃ buf', decArm c { s with dec := { s.dec with buf := buf } } =
        .next (r, { t with dec := { t.dec with buf := buf' } }) ∧
      ∀ a, a < t.dec.n.toNat → readByte a buf' = readByte a t.dec.buf := by
  cases c with
  | sentinel => cases h; exact ⟨buf, rfl, fun a ha => absurd ha (Nat.not_lt_zero a)⟩
  | sizeShort | sizeLong => cases h; exact ⟨buf, rfl, hb⟩
  | sizeLow l =>
    simp only [decArm, decSizeLow] at h ⊢
    split at h <;> cases h
    · next h0 => exact ⟨buf, if_pos h0, fun a ha => absurd ha (Nat.not_lt_zero a)⟩
    · next h0 => exact ⟨buf, if_neg h0, hb⟩
  | command c =>
    simp only [decArm, decCommand] at h ⊢
    split at h <;> cases h
    next h0 => exact ⟨buf, if_neg h0, fun a ha => absurd ha (Nat.not_lt_zero a)⟩
  | payload d =>
    simp only [decArm, decPayload] at h ⊢
    split at h
    · cases h
    next h0 =>
    split at h
    · cases h
    next m hw =>
    cases h
    obtain ⟨hn, hsame, hother⟩ := memWrite_spec hw
    refine ⟨storeByte s.dec.n.toNat d buf, by rw [if_neg h0, memWrite_inside hn], fun a ha => ?_⟩
    have ha' : a < s.dec.n.toNat + 1 := by rwa [← add_one_toNat hn]
    by_cases he : a = s.dec.n.toNat
    · rw [he, readByte_storeByte_same, hsame]
    · rw [readByte_storeByte_other he, hother a he, hb a (by omega)]
  | checksum k =>
    have hread : memRead buf 0 s.dec.n.toNat = memRead s.dec.buf 0 s.dec.n.toNat :=
      memRead_congr (fun i hi => by rw [Nat.zero_add]; exact hb i hi)
    simp only [decArm, decChecksum, hread] at h ⊢
    split at h
    · next h0 =>
      split at h <;> cases h
      exact ⟨buf, by simp only [h0, if_true]; rfl, fun a ha => absurd ha (Nat.not_lt_zero a)⟩
    · next h0 => cases h; exact ⟨buf, by simp only [h0]; rfl, fun a ha => absurd ha (Nat.not_lt_zero a)⟩

/-- The dispatch of a completed frame does not read the decoder. -/
theorem dispatched_withDec (cfg : Config) (r : Result) (s : State) (d : DecState) :
    dispatched cfg r { s with dec := d } = { dispatched cfg r s with dec := d } := by
  cases r with
  | frame c p =>
    obtain ⟨-, -, -, -, hresult, -⟩ := dispatch_handlerFrame cfg c p s
    exact (dispatch_local cfg c p s d s.result).trans (by rw [← hresult]; rfl)
  | _ => rfl

/-- RX over another buffer with the same bytes below the fill count. -/
theorem rx_withBuf {cfg : Config} {b : Byte} {s t : State} {buf : List Host.Cell} (h : rx cfg b s = .next t)
    (hb : ∀ a, a < s.dec.n.toNat → readByte a buf = readByte a s.dec.buf) :
    ∃ buf', rx cfg b { s with dec := { s.dec with buf := buf } } =
        .next { t with dec := { t.dec with buf := buf' } } ∧
      ∀ a, a < t.dec.n.toNat → readByte a buf' = readByte a t.dec.buf := by
  rcases rx_next h with ⟨hdown, rfl⟩ | ⟨hu, r, t, hstep, rfl⟩
  · exact ⟨buf, by simp only [rx, hdown]; rfl, hb⟩
  · obtain ⟨buf', hstep', hb'⟩ := decArm_withBuf (s := foldAcc b s) hstep hb
    have hdec := (dispatched_handlerFrame cfg r t).1
    refine ⟨buf', ?_, by rwa [hdec]⟩
    rw [rx_of_decStep (s := { s with dec := { s.dec with buf := buf } }) hu hstep', dispatched_withDec, hdec]

/-- Settles O27. The decoder's arms say both; the dispatch neither reads nor writes the decoder. -/
theorem bufferIsWrittenAndReadOnlyUpToTheFillCount : Obligations.BufferIsWrittenAndReadOnlyUpToTheFillCount := by
  unfold Obligations.BufferIsWrittenAndReadOnlyUpToTheFillCount
  refine ⟨fun b s t a hrx hne => ?written, fun b s t buf hrx hb => ?seen⟩
  case written =>
    rcases rx_next hrx with ⟨-, rfl⟩ | ⟨hu, r, t, hstep, rfl⟩
    · exact absurd rfl hne
    · simp only [(dispatched_handlerFrame Config.machine r t).1] at hne ⊢
      rcases (decArm_next hstep).2 with hbuf | ⟨d, hclass, hw⟩
      · exact absurd (by rw [hbuf, foldAcc_dec]) hne
      · obtain ⟨hst, rfl⟩ := classifyByte_eq_payload hclass
        obtain ⟨-, hsame, hother⟩ := memWrite_spec hw
        by_cases he : a = s.dec.n.toNat
        · exact ⟨hu, hst, he, by rw [he]; exact hsame⟩
        · exact absurd (hother a he) hne
  case seen =>
    obtain ⟨buf', hrx', hb'⟩ := rx_withBuf hrx hb
    exact ⟨_, hrx', rfl, hb'⟩

end Machine
end Sys2Proof
end

section
/-! Runs of received bytes (40_frame_decoder.md section 8, 70_reset_and_hazards.md R149): the bytes of a frame up to its checksum, the
frame they give or the change they betray, and the zero run that resynchronises. -/

namespace Sys2Proof
namespace Machine

open Sys2Proof.Safety

/-! ### The size field received -/

/-- The bytes that are a size field, and the total length they say (30_encoding.md R47, R48, R57). -/
inductive SizeField : List Byte → Nat → Prop
  | short {b : Byte} (h0 : b ≠ 0) (hb : b.toNat < 128) : SizeField [b] b.toNat
  | long {b0 b1 : Byte} (hb : 128 ≤ b0.toNat) (h0 : (b0.toNat - 128) * 256 + b1.toNat ≠ 0) :
      SizeField [b0, b1] ((b0.toNat - 128) * 256 + b1.toNat)

theorem sizeField_shortHeader {total : Nat} (h1 : 1 ≤ total) (h : total ≤ 127) : SizeField (shortHeader total) total := by
  obtain ⟨b, hhead, h0, rfl⟩ := shortHeader_spec h1 h
  rw [hhead]
  exact .short h0 (by omega)

theorem sizeField_longHeader {total : Nat} (h1 : 1 ≤ total) (h : total < 2 ^ 15) : SizeField (longHeader total) total := by
  obtain ⟨b0, b1, hhead, hb, rfl⟩ := longHeader_spec h
  rw [hhead]
  exact .long hb (by omega)

/-- The encoder's size field, in whichever of the two forms (41_frame_encoder.md R82). -/
theorem sizeField_frameHeader {total : Nat} (h1 : 1 ≤ total) (h : total < 2 ^ 15) : SizeField (frameHeader total) total := by
  by_cases hs : total ≤ 127
  · rw [frameHeader_eq_short hs]; exact sizeField_shortHeader h1 hs
  · rw [frameHeader_eq_long (by omega)]; exact sizeField_longHeader h1 h

/-- A byte step that reports no error writes the decoder alone. -/
theorem decStep_noFrame_spec {b : Byte} {s : State} (hi : decInv s.dec)
    (hno : ∀ r d, ByteEffect b s.dec r d → r = .noFrame) :
    ∃ t, decStep b s = .next (.noFrame, t) ∧ decInv t.dec ∧ ByteEffect b s.dec .noFrame t.dec ∧
      t = { s with dec := t.dec } := by
  obtain ⟨r, t, hstep, hinv, heffect, hframe, hout⟩ := decStep_spec b s hi
  obtain rfl := hno r t.dec heffect
  refine ⟨t, hstep, hinv, heffect, ?_⟩
  rcases hout with hout | ⟨-, k, hk⟩
  · rwa [hout] at hframe
  · cases hk

theorem decResults_cons {b : Byte} {bs : List Byte} {s t u : State} {r : Result} {rs : List Result}
    (h : decStep b s = .next (r, t)) (hrest : decResults bs t = some (rs, u)) :
    decResults (b :: bs) s = some (r :: rs, u) := by
  simp only [decResults, h, hrest]

/-- A size field received at a frame boundary: the counter holds the total length, the accumulator the bytes. -/
theorem decResults_sizeField {header : List Byte} {total : Nat} {s : State} (h : SizeField header total)
    (hi : decInv s.dec) (hst : s.dec.st = .size) :
    ∃ t, decResults header s = some (List.replicate header.length .noFrame, t) ∧ t = { s with dec := t.dec } ∧
      decInv t.dec ∧ t.dec.st = .command ∧ t.dec.rem.toNat = total ∧ t.dec.acc = xorFold header ∧
      t.dec.buf = s.dec.buf := by
  cases h with
  | @short b h0 hb =>
    obtain ⟨t, hstep, hinv, heffect, hframe⟩ := decStep_noFrame_spec (b := b) hi
      (fun r d h => by simp only [ByteEffect, hst] at h; exact h.1)
    simp only [ByteEffect, hst] at heffect
    obtain ⟨-, hbuf, -, hsize⟩ := heffect
    obtain ⟨hacc, -, -, hshort, -⟩ := hsize h0
    obtain ⟨hst', hrem⟩ := hshort hb
    exact ⟨t, decResults_cons hstep rfl, hframe, hinv, hst', hrem, by simp [hacc, xorFold], hbuf⟩
  | @long b0 b1 hb h0 =>
    have hb0 : b0 ≠ 0 := by rintro rfl; simp at hb
    obtain ⟨t, hstep, hinv, heffect, hframe⟩ := decStep_noFrame_spec (b := b0) hi
      (fun r d h => by simp only [ByteEffect, hst] at h; exact h.1)
    simp only [ByteEffect, hst] at heffect
    obtain ⟨-, hbuf, -, hsize⟩ := heffect
    obtain ⟨hacc, -, -, -, hlong⟩ := hsize hb0
    obtain ⟨hst', hrem⟩ := hlong hb
    obtain ⟨u, hstep', hinv', heffect', hframe'⟩ := decStep_noFrame_spec (b := b1) hinv
      (fun r d h => by simp only [ByteEffect, hst', hrem] at h; exact (h.2.2 h0).1)
    simp only [ByteEffect, hst', hrem] at heffect'
    obtain ⟨hbuf', -, hjoined⟩ := heffect'
    obtain ⟨-, hst'', hacc', hrem', -⟩ := hjoined h0
    exact ⟨u, decResults_cons hstep (decResults_cons hstep' rfl), by rw [hframe', hframe], hinv', hst'', hrem',
      by simp [hacc', hacc, xorFold], hbuf'.trans hbuf⟩

/-! ### A frame up to its checksum -/

/-- The decoder that awaits a checksum: from a state `s` a payload `p` has been stored from index `n` on, nothing else has changed, and
the accumulator holds `sum`. -/
structure AtChecksum (sum c : Byte) (n : Nat) (p : List Byte) (s t : State) : Prop where
  frame : t = { s with dec := t.dec }
  inv : decInv t.dec
  st : t.dec.st = .checksum
  acc : t.dec.acc = sum
  cmd : t.dec.cmd = c
  count : t.dec.n.toNat = n + p.length
  stored : ∀ i, i < p.length → p[i]? = some (readByte (n + i) t.dec.buf)
  kept : ∀ a, a < n ∨ n + p.length ≤ a → readByte a t.dec.buf = readByte a s.dec.buf

/-- The payload's bytes, as many as the counter says, are stored in order. -/
theorem decResults_payload {p : List Byte} {s : State} (hi : decInv s.dec) (hrem : s.dec.rem.toNat = p.length)
    (hst : s.dec.st = if p.length = 0 then .checksum else .payload) :
    ∃ t, decResults p s = some (List.replicate p.length .noFrame, t) ∧
      AtChecksum (s.dec.acc ^^^ xorFold p) s.dec.cmd s.dec.n.toNat p s t := by
  induction p generalizing s with
  | nil =>
    exact ⟨s, rfl, rfl, hi, hst, by simp [xorFold], rfl, rfl, fun i h => absurd h (Nat.not_lt_zero i), fun _ _ => rfl⟩
  | cons b p ih =>
    have hst : s.dec.st = .payload := hst
    obtain ⟨t, hstep, hinv, heffect, hframe⟩ := decStep_noFrame_spec (b := b) hi
      (fun r d h => by simp only [ByteEffect, hst] at h; exact h.1)
    simp only [ByteEffect, hst, hrem, List.length_cons] at heffect
    obtain ⟨-, hst', hacc, hcmd, hn, hrem', hsame, hother⟩ := heffect
    obtain ⟨u, hrun, hu⟩ := ih hinv (by omega) (by rw [hst']; simp)
    refine ⟨u, decResults_cons hstep hrun, ?_⟩
    constructor
    case frame => rw [hu.frame, hframe]
    case inv => exact hu.inv
    case st => exact hu.st
    case acc => rw [hu.acc, hacc, xorFold_cons, BitVec.xor_assoc]
    case cmd => rw [hu.cmd, hcmd]
    case count => rw [hu.count, hn, List.length_cons]; omega
    case stored =>
      intro i hi
      cases i with
      | zero =>
        rw [List.getElem?_cons_zero, Nat.add_zero, hu.kept _ (by omega), hsame]
      | succ i =>
        rw [List.getElem?_cons_succ, hu.stored i (by simpa using hi), hn]
        congr 2; omega
    case kept =>
      intro a ha
      rw [List.length_cons] at ha
      rw [hu.kept a (by omega), hother a (by omega)]

/-- Size field, command and payload received at a frame boundary. -/
theorem decResults_body {header p : List Byte} {s : State} (h : SizeField header (p.length + 1)) (hi : decInv s.dec)
    (hst : s.dec.st = .size) (c : Byte) :
    ∃ t, decResults (header ++ c :: p) s = some (List.replicate (header ++ c :: p).length .noFrame, t) ∧
      AtChecksum (xorFold (header ++ c :: p)) c 0 p s t := by
  obtain ⟨t, hhead, hframe, hinv, hst', hrem, hacc, hbuf⟩ := decResults_sizeField h hi hst
  obtain ⟨u, hstep, hinv', heffect, hframe'⟩ := decStep_noFrame_spec (b := c) hinv
    (fun r d h => by simp only [ByteEffect, hst'] at h; exact h.1)
  simp only [ByteEffect, hst', hrem] at heffect
  obtain ⟨-, hbuf', hst'', hacc', hcmd, hn, hrem'⟩ := heffect
  obtain ⟨v, hrun, hv⟩ := decResults_payload (p := p) hinv' (by omega) (by rw [hst'']; simp)
  refine ⟨v, ?_, ?_⟩
  · rw [decResults_append hhead, decResults_cons hstep hrun]
    simp [List.replicate_add, List.replicate_succ]
  · have hn0 : u.dec.n.toNat = 0 := by rw [hn]; rfl
    have hsum : xorFold (header ++ c :: p) = u.dec.acc ^^^ xorFold p := by
      rw [xorFold_append, xorFold_cons, hacc', hacc, BitVec.xor_assoc]
    rw [hn0, hcmd, ← hsum] at hv
    exact { hv with
      frame := by rw [hv.frame, hframe', hframe]
      kept := fun a ha => by rw [hv.kept a ha, hbuf', hbuf] }

/-! ### The checksum -/

/-- The buffer below the fill count reads as the payload stored there. -/
theorem AtChecksum.memRead {sum c : Byte} {p : List Byte} {s t : State} (h : AtChecksum sum c 0 p s t) :
    memRead t.dec.buf 0 t.dec.n.toNat = .ok p := by
  have hcount : t.dec.n.toNat = p.length := by rw [h.count, Nat.zero_add]
  have hinv : t.dec.n.toNat ≤ Config.maxPayload := by
    obtain ⟨-, hsub⟩ := h.inv
    simp only [subStateInv, h.st] at hsub
    exact hsub.2
  obtain ⟨q, hq⟩ := memRead_inside t.dec.buf (a := 0) (n := t.dec.n.toNat) (by rw [Nat.zero_add]; exact hinv)
  obtain ⟨hlen, hread⟩ := memRead_ok hq
  rw [hq, List.ext_getElem? (l₁ := q) (l₂ := p) fun i => ?_]
  by_cases hi : i < p.length
  · rw [hread i (by omega), h.stored i hi]
  · rw [List.getElem?_eq_none (by omega), List.getElem?_eq_none (by omega)]

/-- The byte that closes the fold completes the frame. -/
theorem AtChecksum.decStep_ok {sum c : Byte} {p : List Byte} {s t : State} (h : AtChecksum sum c 0 p s t) :
    decStep sum t = .next (.frame c p, { s with dec := { DecState.reset with buf := t.dec.buf } }) := by
  have hacc : t.dec.acc ^^^ sum = 0 := by rw [h.acc]; exact BitVec.xor_self
  rw [decStep_checksum_ok h.st hacc h.memRead, h.cmd, h.frame]

/-- Any other byte is the error, with the residue. -/
theorem AtChecksum.decStep_bad {sum c k : Byte} {p : List Byte} {s t : State} (h : AtChecksum sum c 0 p s t)
    (hk : sum ≠ k) : decStep k t = .next (.err .checksum, { s with
      dec := { DecState.reset with buf := t.dec.buf }, out := s.out ++ [.log .framingChecksum (.byte (sum ^^^ k))] }) := by
  have hacc : t.dec.acc ^^^ k ≠ 0 := by rw [h.acc]; exact fun e => hk (BitVec.xor_eq_zero_iff.1 e)
  rw [decStep_checksum_bad h.st hacc, h.acc, h.frame]

theorem decResults_append_last {as : List Byte} {k : Byte} {s t u : State} {r : Result} {n : Nat}
    (h : decResults as s = some (List.replicate n .noFrame, t)) (hk : decStep k t = .next (r, u)) :
    decResults (as ++ [k]) s = some (List.replicate n .noFrame ++ [r], u) := by
  rw [decResults_append h, decResults_cons hk rfl]; rfl

/-- Settles O29. The encoder's checksum is the fold the decoder holds when it arrives. -/
theorem decoderReturnsTheEncodersOperands : Obligations.DecoderReturnsTheEncodersOperands := by
  unfold Obligations.DecoderReturnsTheEncodersOperands
  intro c p s hp hi hst
  obtain ⟨t, hrun, ht⟩ := decResults_body (sizeField_frameHeader (total := p.length + 1) (by omega) (by omega)) hi hst c
  have hwf : Memory.wf t.dec.buf = true := ht.inv.1
  have hcount : (frameBytes c p).length - 1 = (frameHeader (p.length + 1) ++ c :: p).length := by
    rw [frameBytes_eq, List.length_append, List.length_singleton, Nat.add_sub_cancel]
  rw [hcount, frameBytes_eq, decResults_append_last hrun ht.decStep_ok]
  exact ⟨_, rfl, rfl, rfl, decInv_reset hwf⟩

/-! ### A changed byte -/

/-- A change at one index changes the fold by the exclusive or of the two bytes. -/
theorem xorFold_set {bs : List Byte} {i : Nat} (hi : i < bs.length) (b : Byte) :
    xorFold (bs.set i b) = xorFold bs ^^^ (bs[i] ^^^ b) := by
  induction bs generalizing i with
  | nil => simp at hi
  | cons a bs ih =>
    cases i with
    | zero =>
      have hcancel : a ^^^ xorFold bs ^^^ (a ^^^ b) = a ^^^ a ^^^ (b ^^^ xorFold bs) := by ac_rfl
      rw [List.set_cons_zero, xorFold_cons, xorFold_cons, List.getElem_cons_zero, hcancel, BitVec.xor_self,
        BitVec.zero_xor]
    | succ i =>
      simp only [List.set_cons_succ, xorFold_cons, List.getElem_cons_succ, ih (by simpa using hi), BitVec.xor_assoc]

/-- A list of two bytes and more is a first byte, those between, and a last one. -/
theorem exists_first_last {bs : List Byte} {n : Nat} (h : bs.length = n + 2) :
    ∃ c p k, bs = c :: p ++ [k] ∧ p.length = n := by
  obtain ⟨c, bs, rfl⟩ := List.exists_cons_of_length_eq_add_one h
  obtain ⟨p, k, rfl⟩ := List.eq_nil_or_concat bs |>.resolve_left (by rintro rfl; simp at h)
  exact ⟨c, p, k, by simp, by simpa using h⟩

theorem frameHeader_length (n : Nat) : (frameHeader (n + 1)).length = if n ≤ 126 then 1 else 2 := by
  by_cases h : n ≤ 126
  · rw [if_pos h, frameHeader_eq_short (by omega)]; rfl
  · rw [if_neg h, frameHeader_eq_long (by omega)]; rfl

/-- Settles O30. With its size field kept, the changed frame is received up to its last byte as a frame; its fold is the change, which
is not zero. -/
theorem changedByteIsDetected : Obligations.ChangedByteIsDetected := by
  unfold Obligations.ChangedByteIsDetected
  intro c p s i b hp hi hst hsize hlt hne
  have hheader : SizeField (frameHeader (p.length + 1)) (p.length + 1) := sizeField_frameHeader (by omega) (by omega)
  generalize hh : frameHeader (p.length + 1) = header at hheader
  have hlen : header.length = if p.length ≤ 126 then 1 else 2 := by rw [← hh, frameHeader_length]
  have hbytes : frameBytes c p = header ++ (c :: p ++ [xorFold (header ++ c :: p)]) := by
    rw [frameBytes_eq, hh, List.append_assoc]
  obtain ⟨c', p', k', hrest, hp'⟩ := exists_first_last (n := p.length)
    (bs := (c :: p ++ [xorFold (header ++ c :: p)]).set (i - header.length) b) (by simp)
  have hset : (frameBytes c p).set i b = header ++ c' :: p' ++ [k'] := by
    rw [hbytes, List.set_append_right _ _ (by omega), hrest, List.append_assoc]
  have hbad : xorFold (header ++ c' :: p') ≠ k' := by
    intro e
    have hfold : 0 ^^^ ((frameBytes c p)[i] ^^^ b) = 0 := by
      rw [← xorFold_frameBytes c p, ← xorFold_set hlt, hset, (xorFold_append_checksum _ _).2 e, xorFold_frameBytes]
    have hsame : (frameBytes c p)[i] = b := by simpa using hfold
    exact hne (by rw [List.getElem?_eq_getElem hlt, hsame])
  obtain ⟨t, hrun, ht⟩ := decResults_body (p := p') (by rwa [hp']) hi hst c'
  have hwf : Memory.wf t.dec.buf = true := ht.inv.1
  have hcount : (frameBytes c p).length - 1 = (header ++ c' :: p').length := by
    rw [← List.length_set, hset]; simp
  rw [hcount, hset, decResults_append_last hrun (ht.decStep_bad hbad)]
  exact ⟨_, rfl, rfl, decInv_reset hwf, rfl⟩

/-! ### A frame item, dispatched -/

/-- The bytes of a well-formed frame item, in either form: a size field, the body and its fold. -/
theorem itemBytes_frame {cfg : Config} {i : Instr} {c k : Byte} {p : List Byte}
    (h : i = .itemFrameShort c p k ∨ i = .itemFrameLong c p k) (hwf : i.wf cfg = true) :
    ∃ header, SizeField header (p.length + 1) ∧ itemBytes i = header ++ c :: p ++ [k] ∧ xorFold (header ++ c :: p) = k := by
  rcases h with rfl | rfl
  · obtain ⟨hlen, hk⟩ := wf_itemFrameShort_iff.1 hwf
    exact ⟨_, sizeField_shortHeader (by omega) hlen, rfl, hk⟩
  · obtain ⟨hlen, hk⟩ := wf_itemFrameLong_iff.1 hwf
    exact ⟨_, sizeField_longHeader (by omega) (Nat.lt_of_le_of_lt hlen (by decide)), rfl, hk⟩

/-- A frame delivered at a frame boundary: the byte that closes its fold dispatches it, with its payload in the buffer. -/
theorem rxBatch_frame {cfg : Config} {header p : List Byte} {s : State} (h : SizeField header (p.length + 1))
    (hu : s.link.up = true) (hi : decInv s.dec) (hst : s.dec.st = .size) (c : Byte) :
    ∃ buf, (∀ a, a < p.length → p[a]? = some (readByte a buf)) ∧
      (∀ a, p.length ≤ a → readByte a buf = readByte a s.dec.buf) ∧
      rxBatch cfg (header ++ c :: p ++ [xorFold (header ++ c :: p)]) s = .next
        { dispatch cfg c p { s with dec := { DecState.reset with buf := buf } } with result := .frame c p } := by
  obtain ⟨t, hrun, ht⟩ := decResults_body h hi hst c
  refine ⟨t.dec.buf, fun a ha => by rw [ht.stored a ha, Nat.zero_add], fun a ha => ht.kept a (.inr (by omega)), ?_⟩
  obtain ⟨x, hbatch⟩ := rxBatch_of_decResults (cfg := cfg) hu hrun
    (fun r hr c p e => by rw [List.eq_of_mem_replicate hr] at e; cases e)
  have hut : t.link.up = true := by rw [ht.frame]; exact hu
  have hlast := rx_of_decStep (cfg := cfg) (s := { t with result := x }) hut (decStep_withResult x ht.decStep_ok)
  have hlocal := dispatch_withResult cfg c p { s with dec := { DecState.reset with buf := t.dec.buf } } x
  rw [rxBatch_append, hbatch]
  simp only [rxBatch, hlast, dispatched, hlocal]

/-- Settles O28. A long form that a short one could spell is a size field like any other. -/
theorem wireFrameIsDispatched : Obligations.WireFrameIsDispatched := by
  unfold Obligations.WireFrameIsDispatched
  intro i c p k s hitem hwf hu hi hst
  obtain ⟨header, hsize, hbytes, rfl⟩ := itemBytes_frame hitem hwf
  obtain ⟨buf, hstored, hkept, hbatch⟩ := rxBatch_frame (cfg := Config.machine) hsize hu hi hst c
  have hwire : WireItem i := by
    rcases hitem with rfl | rfl
    · exact .short _ _ _
    · exact .long _ _ _
  exact ⟨buf, _, hstored, hkept, exec_dispatch c p _, by rw [exec_wireItem hwire, hbytes, hbatch]⟩

/-! ### The zero run -/

theorem zerosNeeded_eq_zero_iff (d : DecState) : zerosNeeded d = 0 ↔ d.st = .size := by
  cases h : d.st <;> simp only [zerosNeeded, h]
  case sizeHigh => split <;> simp
  all_goals simp

/-- Under the invariant the counter bounds the run (10_state.md R27). -/
theorem zerosNeeded_le {d : DecState} (hi : decInv d) : zerosNeeded d ≤ 32768 := by
  obtain ⟨-, hsub⟩ := hi
  have hlt := d.rem.isLt
  cases h : d.st <;> simp only [zerosNeeded, subStateInv, h] at hsub ⊢
  case sizeHigh =>
    split
    · omega
    · obtain ⟨hmod, -⟩ := hsub
      omega
  all_goals omega

/-- A zero byte brings the boundary one byte nearer. -/
theorem decStep_zero {s : State} (hi : decInv s.dec) :
    ∃ r t, decStep 0 s = .next (r, t) ∧ decInv t.dec ∧ zerosNeeded t.dec = zerosNeeded s.dec - 1 := by
  obtain ⟨r, t, hstep, hinv, heffect, -, -⟩ := decStep_spec 0 s hi
  obtain ⟨-, hsub⟩ := hi
  refine ⟨r, t, hstep, hinv, ?_⟩
  cases hst : s.dec.st <;> simp only [ByteEffect, subStateInv, hst] at heffect hsub
  case size =>
    obtain ⟨-, -, hzero, -⟩ := heffect
    rw [hzero trivial, (zerosNeeded_eq_zero_iff _).2 hst]
  case sizeHigh =>
    obtain ⟨-, hzero, hjoined⟩ := heffect
    by_cases h0 : s.dec.rem = 0
    · obtain ⟨hdec, -⟩ := hzero (by rw [h0]; rfl)
      simp [zerosNeeded, hst, h0, hdec, DecState.reset]
    · have hne : s.dec.rem.toNat ≠ 0 := fun e => h0 (BitVec.eq_of_toNat_eq e)
      obtain ⟨-, hst', -, hrem, -⟩ := hjoined (by simpa using hne)
      simp only [zerosNeeded, hst, hst', hrem, if_neg h0]
      simp
  case command =>
    obtain ⟨-, -, hst', -, -, -, hrem⟩ := heffect
    obtain ⟨hpos, -⟩ := hsub
    by_cases h1 : s.dec.rem.toNat = 1
    · simp [zerosNeeded, hst, hst', h1]
    · simp [zerosNeeded, hst, hst', h1, hrem]; omega
  case payload =>
    obtain ⟨-, hst', -, -, -, hrem, -⟩ := heffect
    obtain ⟨hpos, -⟩ := hsub
    by_cases h1 : s.dec.rem.toNat = 1
    · simp [zerosNeeded, hst, hst', h1]
    · simp [zerosNeeded, hst, hst', h1, hrem]; omega
  case checksum =>
    obtain ⟨hdec, -⟩ := heffect
    simp [zerosNeeded, hst, hdec, DecState.reset]

theorem decResults_zeros {s : State} (hi : decInv s.dec) (m : Nat) :
    ∃ rs t, decResults (List.replicate m 0) s = some (rs, t) ∧ decInv t.dec ∧
      zerosNeeded t.dec = zerosNeeded s.dec - m := by
  induction m generalizing s with
  | zero => exact ⟨[], s, rfl, hi, rfl⟩
  | succ m ih =>
    obtain ⟨r, t, hstep, hinv, hneeded⟩ := decStep_zero hi
    obtain ⟨rs, u, hrun, hinv', hneeded'⟩ := ih hinv
    exact ⟨r :: rs, u, decResults_cons hstep hrun, hinv', by omega⟩

/-- Settles O31. At the boundary none is needed, and each zero takes one from what is needed. -/
theorem zeroRunReachesTheBoundary : Obligations.ZeroRunReachesTheBoundary := by
  unfold Obligations.ZeroRunReachesTheBoundary
  intro s hi
  refine ⟨zerosNeeded_le hi, fun m => ?_⟩
  obtain ⟨rs, t, hrun, hinv, hneeded⟩ := decResults_zeros hi m
  exact ⟨rs, t, hrun, hinv, by rw [← zerosNeeded_eq_zero_iff, hneeded, Nat.sub_eq_zero_iff_le]⟩

end Machine
end Sys2Proof
end

section
/-! The Command Dispatcher and the frame-driven handlers of the flow controller (42_command_dispatcher.md, 43_flow_controller.md section
3): one equation per handler and branch, and the row each command byte runs. -/

namespace Sys2Proof
namespace Machine

open Sys2Proof.Safety

/-! ### The global handlers -/

theorem hParametersReply_accepts {p : List Byte} (h : 10 ≤ p.length) (cfg : Config) (s : State) :
    hParametersReply cfg p s = (.ok, { s with
      link := { s.link with
        params := some (decodeParams cfg.order p), triggerInvert := invertFlag cfg (decodeParams cfg.order p).flags }
      out := s.out ++ [.onParameters (decodeParams cfg.order p)] }) := if_neg (not_lt.2 h)

theorem hParametersReply_malformed {p : List Byte} (h : p.length < 10) (cfg : Config) (s : State) :
    hParametersReply cfg p s = (.rejected, raise .malformed (.byte cfg.cmdParametersReply) s) := if_pos h

theorem hVersionReply_accepts {p : List Byte} (h : 2 ≤ p.length) (cfg : Config) (s : State) :
    hVersionReply cfg p s = (.ok, { s with link := { s.link with version := some (byteAt p 0, byteAt p 1) } }) :=
  if_neg (not_lt.2 h)

theorem hVersionReply_malformed {p : List Byte} (h : p.length < 2) (cfg : Config) (s : State) :
    hVersionReply cfg p s = (.rejected, raise .malformed (.byte cfg.cmdVersionReply) s) := if_pos h

theorem hPwm1Reply_accepts {p : List Byte} (h : 7 ≤ p.length) (cfg : Config) (s : State) :
    hPwm1Reply cfg p s = { s with
      link := { s.link with pwm1 := some (decodePwm cfg.order p) }
      out := s.out ++ [.onPwm1 (decodePwm cfg.order p)] } := if_neg (not_lt.2 h)

theorem hPwm1Reply_malformed {p : List Byte} (h : p.length < 7) (cfg : Config) (s : State) :
    hPwm1Reply cfg p s = raise .malformed (.byte cfg.cmdPwm1Reply) s := if_pos h

/-- The meaning of the row, with the machine's byte order (20_memory.md R35). -/
theorem exec_hParametersReply {p : List Byte} (h : 10 ≤ p.length) (s : State) :
    exec (.hParametersReply p) s = .next { s with
      link := { s.link with
        params := some (decodeParams .le p), triggerInvert := invertFlag Config.machine (decodeParams .le p).flags }
      out := s.out ++ [.onParameters (decodeParams .le p)]
      result := .ok } := by
  change leave (hParametersReply Config.machine p s) = _
  rw [hParametersReply_accepts h, Config.machine_order]; rfl

theorem exec_hParametersReply_malformed {p : List Byte} (h : p.length < 10) (s : State) :
    exec (.hParametersReply p) s = .next { s with
      out := s.out ++ [.log .malformed (.byte Config.machine.cmdParametersReply)], result := .rejected } := by
  change leave (hParametersReply Config.machine p s) = _
  rw [hParametersReply_malformed h]; rfl

theorem exec_hVersionReply {p : List Byte} (h : 2 ≤ p.length) (s : State) :
    exec (.hVersionReply p) s = .next { s with
      link := { s.link with version := some (byteAt p 0, byteAt p 1) }, result := .ok } := by
  change leave (hVersionReply Config.machine p s) = _
  rw [hVersionReply_accepts h]; rfl

theorem exec_hVersionReply_malformed {p : List Byte} (h : p.length < 2) (s : State) :
    exec (.hVersionReply p) s = .next { s with
      out := s.out ++ [.log .malformed (.byte Config.machine.cmdVersionReply)], result := .rejected } := by
  change leave (hVersionReply Config.machine p s) = _
  rw [hVersionReply_malformed h]; rfl

/-- Settles O33. The trigger bit is read from byte 6 of the record (20_memory.md R38). -/
theorem parametersReplyUpdatesTheCache : Obligations.ParametersReplyUpdatesTheCache := by
  unfold Obligations.ParametersReplyUpdatesTheCache
  intro p s
  exact ⟨fun h => exec_hParametersReply h s, fun h => exec_hParametersReply_malformed h s⟩

/-- Settles O34. A payload that begins with two bytes is long enough. -/
theorem versionReplyIsRecorded : Obligations.VersionReplyIsRecorded := by
  unfold Obligations.VersionReplyIsRecorded
  intro v0 v1 p s
  exact ⟨exec_hVersionReply (p := v0 :: v1 :: p) (by simp) s, fun h => exec_hVersionReply_malformed h s⟩

/-- Settles O35. By the two answers of `DecodeConstants`. -/
theorem constantsReplyFollowsDecodeConstants : Obligations.ConstantsReplyFollowsDecodeConstants := by
  unfold Obligations.ConstantsReplyFollowsDecodeConstants
  intro p s
  change leave (noResult (hConstantsReply Config.machine p s)) = _
  unfold hConstantsReply
  cases Config.machine.decodeConstants p <;> rfl

/-- Settles O36. By the length of the payload. -/
theorem pwm1ReplyUpdatesTheCache : Obligations.Pwm1ReplyUpdatesTheCache := by
  unfold Obligations.Pwm1ReplyUpdatesTheCache
  intro p s
  have hexec : exec (.hPwm1Reply p) s = leave (noResult (hPwm1Reply Config.machine p s)) := rfl
  rw [hexec]
  refine ⟨fun h => ?accepts, fun h => ?malformed⟩
  case accepts => rw [hPwm1Reply_accepts h, Config.machine_order]; rfl
  case malformed => rw [hPwm1Reply_malformed h, leave_noResult_raise]

/-- Settles O37. Both handlers are one log event. -/
theorem scratchpadAndErrorAreLogged : Obligations.ScratchpadAndErrorAreLogged := by
  unfold Obligations.ScratchpadAndErrorAreLogged
  intro p s
  exact ⟨leave_noResult_raise _ _ s, leave_noResult_raise _ _ s⟩

/-! ### The phase handlers -/

theorem pParameters_of_gettingParameters {cfg : Config} {s : State} (h : s.link.phase = .gettingParameters) :
    pParameters cfg s =
      { afterFrame cfg.cmdStartSampling [] s with link := { s.link with phase := .sampling, inRequest := true } } := by
  rw [pParameters, if_pos h, startSampling_spec]; rfl

theorem pParameters_outOfPhase {cfg : Config} {s : State} (h : s.link.phase ≠ .gettingParameters) :
    pParameters cfg s = s := if_neg h

theorem exec_pParameters (s : State) : exec .pParameters s = leave (noResult (pParameters Config.machine s)) := rfl

/-- Settles O42. The two branches of the handler; the send's flag and the phase are one write of the controller. -/
theorem parametersStartSampling : Obligations.ParametersStartSampling := by
  unfold Obligations.ParametersStartSampling
  intro s
  rw [exec_pParameters]
  refine ⟨fun h => ?inPhase, fun h => ?elsewhere⟩
  case inPhase => rw [pParameters_of_gettingParameters h]; rfl
  case elsewhere => rw [pParameters_outOfPhase h]; rfl

/-- The one-shot fires (R113). -/
theorem pBufferSeg_fires {cfg : Config} {p : List Byte} {s : State} {cb data : Token} (h : s.link.phase = .sampling)
    (ho : s.link.oneshot = some (cb, data)) (hd : s.link.delayRequest = false) :
    pBufferSeg cfg p s = { s with
      link := { s.link with inRequest := false, oneshot := none, delayRequest := false }
      out := s.out ++ [.onSampleFrame p, .onOneshotComplete cb data] } := by
  simp only [pBufferSeg, if_pos h, bufferSegBranch, emit_link, ho, hd]
  simp [emit]

/-- With no one-shot to fire the freeze flag decides (R113). -/
theorem bufferSegBranch_of_not_due {s : State} (h : s.link.oneshot = none ∨ s.link.delayRequest = true) (cfg : Config) :
    bufferSegBranch cfg s = if s.link.freeze = false then (startSampling cfg s).2
      else { s with link := { s.link with inRequest := false } } := by
  unfold bufferSegBranch
  split
  · next cb data ho hd => rw [ho, hd] at h; simp at h
  · rfl

/-- START_SAMPLING is sent again (R113). -/
theorem pBufferSeg_reissues {cfg : Config} {p : List Byte} {s : State} (h : s.link.phase = .sampling)
    (ho : s.link.oneshot = none ∨ s.link.delayRequest = true) (hf : s.link.freeze = false) :
    pBufferSeg cfg p s =
      { afterFrame cfg.cmdStartSampling [] { s with out := s.out ++ [.onSampleFrame p] } with
        link := { s.link with inRequest := true, delayRequest := false } } := by
  have hbranch := bufferSegBranch_of_not_due (s := emit [.onSampleFrame p] s) ho cfg
  rw [emit_link, if_pos hf, startSampling_spec] at hbranch
  rw [pBufferSeg, if_pos h, hbranch]; rfl

/-- The loop stays quiescent (R113). -/
theorem pBufferSeg_freezes {cfg : Config} {p : List Byte} {s : State} (h : s.link.phase = .sampling)
    (ho : s.link.oneshot = none ∨ s.link.delayRequest = true) (hf : s.link.freeze = true) :
    pBufferSeg cfg p s = { s with
      link := { s.link with inRequest := false, delayRequest := false }
      out := s.out ++ [.onSampleFrame p] } := by
  have hbranch := bufferSegBranch_of_not_due (s := emit [.onSampleFrame p] s) ho cfg
  rw [emit_link, if_neg (by simp [hf])] at hbranch
  rw [pBufferSeg, if_pos h, hbranch]; rfl

theorem pBufferSeg_outOfPhase {cfg : Config} {p : List Byte} {s : State} (h : s.link.phase ≠ .sampling) :
    pBufferSeg cfg p s = raise .outOfPhase (.byte cfg.cmdBufferSeg) s := if_neg h

theorem exec_pBufferSeg (p : List Byte) (s : State) :
    exec (.pBufferSeg p) s = .next { pBufferSeg Config.machine p s with result := .none } := rfl

/-- Settles O43. One equation per branch. -/
theorem bufferSegTakesOneOfThreeBranches : Obligations.BufferSegTakesOneOfThreeBranches := by
  unfold Obligations.BufferSegTakesOneOfThreeBranches
  intro p s
  rw [exec_pBufferSeg]
  refine ⟨fun h => ⟨fun cb data ho hd => ?fires, fun ho hf => ?reissues, fun ho hf => ?freezes⟩, fun h => ?elsewhere⟩
  case fires => rw [pBufferSeg_fires h ho hd]
  case reissues => rw [pBufferSeg_reissues h ho hf]
  case freezes => rw [pBufferSeg_freezes h ho hf]
  case elsewhere => rw [pBufferSeg_outOfPhase h]; rfl

theorem exec_startSampling (s : State) :
    exec .startSampling s = .next { afterFrame Config.machine.cmdStartSampling [] s with
      link := { s.link with inRequest := true }, result := if flushAnswer s then .ok else .flushFailed } := by
  change leave (startSampling Config.machine s) = _
  rw [startSampling_spec]; rfl

/-- Settles O44. LinkInit is one write of the controller. -/
theorem linkInitAndStartSampling : Obligations.LinkInitAndStartSampling := by
  unfold Obligations.LinkInitAndStartSampling
  intro s
  exact ⟨rfl, exec_startSampling s⟩

/-! ### A received frame's handlers in order -/

theorem parametersReply_accepts {p : List Byte} (h : 10 ≤ p.length) (cfg : Config) (s : State) :
    parametersReply cfg p s = pParameters cfg (hParametersReply cfg p s).2 := by
  simp only [parametersReply, hParametersReply_accepts h, if_true]

theorem parametersReply_malformed {p : List Byte} (h : p.length < 10) (cfg : Config) (s : State) :
    parametersReply cfg p s = raise .malformed (.byte cfg.cmdParametersReply) s := by
  simp only [parametersReply, hParametersReply_malformed h]; rfl

theorem versionReply_accepts {p : List Byte} (h : 2 ≤ p.length) (cfg : Config) (s : State) :
    versionReply cfg p s = pVersion cfg (hVersionReply cfg p s).2 := by
  simp only [versionReply, hVersionReply_accepts h, if_true]

theorem versionReply_malformed {p : List Byte} (h : p.length < 2) (cfg : Config) (s : State) :
    versionReply cfg p s = raise .malformed (.byte cfg.cmdVersionReply) s := by
  simp only [versionReply, hVersionReply_malformed h]; rfl

theorem versionReply_inPhase {cfg : Config} {p : List Byte} {s : State} (hp : 2 ≤ p.length)
    (h : s.link.phase = .gettingVersion) :
    versionReply cfg p s = { afterFrame cfg.cmdGetParameters [] s with
      link := { s.link with version := some (byteAt p 0, byteAt p 1), phase := .gettingParameters } } := by
  rw [versionReply_accepts hp, hVersionReply_accepts hp]
  refine Eq.trans (pVersion_of_gettingVersion
    (s := { s with link := { s.link with version := some (byteAt p 0, byteAt p 1) } }) h) ?_
  rw [sendFrame_empty]; rfl

theorem versionReply_outOfPhase {cfg : Config} {p : List Byte} {s : State} (hp : 2 ≤ p.length)
    (h : s.link.phase ≠ .gettingVersion) :
    versionReply cfg p s = raise .outOfPhase (.byte cfg.cmdVersionReply)
      { s with link := { s.link with version := some (byteAt p 0, byteAt p 1) } } := by
  rw [versionReply_accepts hp, hVersionReply_accepts hp]
  exact pVersion_outOfPhase h

theorem parametersReply_inPhase {cfg : Config} {p : List Byte} {s : State} (hp : 10 ≤ p.length)
    (h : s.link.phase = .gettingParameters) :
    parametersReply cfg p s =
      { afterFrame cfg.cmdStartSampling [] { s with out := s.out ++ [.onParameters (decodeParams cfg.order p)] } with
        link := { s.link with
          params := some (decodeParams cfg.order p), triggerInvert := invertFlag cfg (decodeParams cfg.order p).flags,
          phase := .sampling, inRequest := true } } := by
  rw [parametersReply_accepts hp, hParametersReply_accepts hp]
  exact pParameters_of_gettingParameters h

theorem parametersReply_outOfPhase {cfg : Config} {p : List Byte} {s : State} (hp : 10 ≤ p.length)
    (h : s.link.phase ≠ .gettingParameters) :
    parametersReply cfg p s = { s with
      link := { s.link with
        params := some (decodeParams cfg.order p), triggerInvert := invertFlag cfg (decodeParams cfg.order p).flags }
      out := s.out ++ [.onParameters (decodeParams cfg.order p)] } := by
  rw [parametersReply_accepts hp, hParametersReply_accepts hp]
  exact pParameters_outOfPhase h

/-- The phase handlers do not read the value that the global handler left. -/
theorem exec_pVersion_withResult (s : State) (x : Result) : exec .pVersion { s with result := x } = exec .pVersion s := by
  by_cases h : s.link.phase = .gettingVersion <;>
    simp only [exec_pVersion, pVersion, h, if_true, if_false, sendFrame_empty] <;> rfl

theorem exec_pParameters_withResult (s : State) (x : Result) :
    exec .pParameters { s with result := x } = exec .pParameters s := by
  by_cases h : s.link.phase = .gettingParameters <;>
    simp only [exec_pParameters, pParameters, h, if_true, if_false, startSampling_spec] <;> rfl

theorem exec_hVersionReply_next {p : List Byte} (h : 2 ≤ p.length) (s : State) :
    exec (.hVersionReply p) s = .next { (hVersionReply Config.machine p s).2 with result := .ok } := by
  rw [exec_hVersionReply h, hVersionReply_accepts h]

theorem exec_hParametersReply_next {p : List Byte} (h : 10 ≤ p.length) (s : State) :
    exec (.hParametersReply p) s = .next { (hParametersReply Config.machine p s).2 with result := .ok } := by
  rw [exec_hParametersReply h, hParametersReply_accepts h, Config.machine_order]

theorem exec_cmdVersionReply (p : List Byte) (s : State) :
    exec (.cmdVersionReply p) s = leave (noResult (versionReply Config.machine p s)) := rfl

theorem exec_cmdParametersReply (p : List Byte) (s : State) :
    exec (.cmdParametersReply p) s = leave (noResult (parametersReply Config.machine p s)) := rfl

/-! ### The row a command byte runs -/

/-- DISPATCH of the eight identifiers, where they are pairwise distinct (R91). -/
theorem dispatch_of_id {cfg : Config} (h : cfg.deviceIds.Nodup) (p : List Byte) (s : State) :
    dispatch cfg cfg.cmdVersionReply p s = versionReply cfg p s ∧
    dispatch cfg cfg.cmdBufferSeg p s = pBufferSeg cfg p s ∧
    dispatch cfg cfg.cmdParametersReply p s = parametersReply cfg p s ∧
    dispatch cfg cfg.cmdConstantsReply p s = hConstantsReply cfg p s ∧
    dispatch cfg cfg.cmdScratchpadReply p s = hScratchpadReply cfg p s ∧
    dispatch cfg cfg.cmdPwm1Reply p s = hPwm1Reply cfg p s ∧
    dispatch cfg cfg.cmdPong p s = pPong cfg s ∧
    dispatch cfg cfg.cmdError p s = hError p s := by
  have hne := deviceIds_ne h
  unfold dispatch
  simp [hne, Ne.symm]

theorem dispatch_unknown {cfg : Config} {c : Byte} (h : c ∉ cfg.deviceIds) (p : List Byte) (s : State) :
    dispatch cfg c p s = hUnknown c s := by
  simp only [Config.deviceIds, List.mem_cons, List.not_mem_nil, or_false, not_or] at h
  simp only [dispatch, h, if_false]

/-- Settles O32. The eight identifiers are distinct, so dispatcher and decoder test them in whichever order. -/
theorem dispatchRoutesByIdentifier : Obligations.DispatchRoutesByIdentifier := by
  unfold Obligations.DispatchRoutesByIdentifier
  intro c p s
  refine ⟨⟨_, exec_dispatch c p s⟩, ?row, fun h => ?unknown⟩
  case row =>
    have hrow := decodeCommand_of_id machine_deviceIds_nodup p
    have hhandler := dispatch_of_id machine_deviceIds_nodup p s
    rw [exec_dispatch]
    rcases command_cases Config.machine c with rfl | rfl | rfl | rfl | rfl | rfl | rfl | rfl | h
    case inr.inr.inr.inr.inr.inr.inr.inr => rw [decodeCommand_unknown h]; rfl
    all_goals
      simp only [hrow, hhandler]
      rfl
  case unknown => rw [exec_dispatch, dispatch_unknown h]; rfl

/-- Settles O53. A global handler that accepts leaves the state its phase handler runs from, but for the value returned. -/
theorem receivedCommandsRunTheirHandlers : Obligations.ReceivedCommandsRunTheirHandlers := by
  unfold Obligations.ReceivedCommandsRunTheirHandlers
  intro c p s
  refine ⟨fun h => ?version, fun h => ?versionShort, fun h => ?parameters, fun h => ?parametersShort, ⟨_, rfl, rfl⟩,
    ⟨_, rfl, rfl⟩, ⟨_, rfl, rfl⟩, ⟨_, rfl, rfl⟩, ⟨_, rfl, rfl⟩, ⟨_, rfl, rfl⟩, fun h => ?unknown⟩
  case version =>
    exact ⟨_, _, exec_hVersionReply_next h s, rfl, exec_pVersion_withResult _ .ok,
      by rw [exec_cmdVersionReply, versionReply_accepts h]; rfl⟩
  case versionShort =>
    exact ⟨_, exec_hVersionReply_malformed h s,
      by rw [exec_cmdVersionReply, versionReply_malformed h, leave_noResult_raise]⟩
  case parameters =>
    exact ⟨_, _, exec_hParametersReply_next h s, rfl, exec_pParameters_withResult _ .ok,
      by rw [exec_cmdParametersReply, parametersReply_accepts h]; rfl⟩
  case parametersShort =>
    exact ⟨_, exec_hParametersReply_malformed h s,
      by rw [exec_cmdParametersReply, parametersReply_malformed h, leave_noResult_raise]⟩
  case unknown =>
    refine ⟨_, rfl, ?_⟩
    change leave (noResult (dispatch Config.machine c p s)) = _
    rw [dispatch_unknown h]; rfl

/-- Settles O54. Each phase handler outside its phase, after what its global handler has recorded. -/
theorem outOfPhaseIsLoggedAndIgnored : Obligations.OutOfPhaseIsLoggedAndIgnored := by
  unfold Obligations.OutOfPhaseIsLoggedAndIgnored
  intro v0 v1 p s
  refine ⟨fun h => ?pong, fun h => ?version, fun h => ?bufferSeg, fun h hp => ?parameters⟩
  case pong =>
    change exec .pPong s = _
    rw [exec_pPong, pPong_outOfPhase h, leave_noResult_raise]
  case version =>
    rw [exec_cmdVersionReply, versionReply_outOfPhase (by simp) h]; rfl
  case bufferSeg =>
    change exec (.pBufferSeg p) s = _
    rw [exec_pBufferSeg, pBufferSeg_outOfPhase h]; rfl
  case parameters =>
    refine ⟨_, exec_hParametersReply hp s, ?_, rfl⟩
    rw [exec_cmdParametersReply, parametersReply_outOfPhase hp h, Config.machine_order]; rfl

end Machine
end Sys2Proof
end

section
/-! The host port (43_flow_controller.md sections 1, 4; 30_encoding.md R62) and the host-to-device command identifiers (R55): what each
operation leaves, the link up and down. -/

namespace Sys2Proof
namespace Machine

open Sys2Proof.Safety

/-! ### CONNECT -/

/-- Settles O45. By the answer of the open. -/
theorem connectInitialisesAndSendsPing : Obligations.ConnectInitialisesAndSendsPing := by
  unfold Obligations.ConnectInitialisesAndSendsPing
  intro s
  have hexec : exec .connect s = leave (connect Config.machine s) := rfl
  rw [hexec, connect_spec]
  refine ⟨fun h => ?opened, fun h => ?failed⟩
  case opened =>
    rw [if_pos h]
    exact ⟨_, rfl, rfl, rfl, rfl⟩
  case failed =>
    rw [if_neg (by simp [h])]; rfl

/-! ### ARM_ONESHOT -/

/-- `Bytes16` in the byte order of this hardware, as numbers (20_memory.md R35). -/
theorem bytes16_machine (v : U16) :
    bytes16 Config.machine.order v = [BitVec.ofNat 8 (v.toNat % 256), BitVec.ofNat 8 (v.toNat / 256)] := by
  rw [Config.machine_order, bytes16]
  congr 1
  · apply BitVec.eq_of_toNat_eq; simp [BitVec.extractLsb'_toNat]
  · congr 1; apply BitVec.eq_of_toNat_eq; simp [BitVec.extractLsb'_toNat, Nat.shiftRight_eq_div_pow]

/-- The result of two flushes is `Ok` exactly when both succeeded (log entry 9). -/
theorem bothResults_flushResult (a b : Bool) :
    bothResults (flushResult a) (flushResult b) = if a ∧ b then .ok else .flushFailed := by
  cases a <;> cases b <;> rfl

/-- The state after the registration and SET_AUTOTRIG (R116). -/
def afterAutotrig (reg : Registration) (s : State) : State :=
  afterFrame Config.machine.cmdSetAutotrig (bytes16 Config.machine.order (armThreshold Config.machine reg))
    { s with link := { s.link with oneshot := reg } }

theorem exec_armOneshot_defers {s : State} (hu : s.link.up = true) (hr : s.link.inRequest = true) (reg : Registration) :
    exec (.armOneshot reg) s = .next { afterAutotrig reg s with
      link := { s.link with oneshot := reg, delayRequest := true }
      result := if flushAnswer s then .ok else .flushFailed } := by
  change leave (whenUp (armUp Config.machine reg) s) = _
  rw [whenUp, if_pos hu, armUp_spec]
  simp only [hr, if_true]
  rfl

theorem exec_armOneshot_sends {s : State} (hu : s.link.up = true) (hr : s.link.inRequest = false) (reg : Registration) :
    exec (.armOneshot reg) s = .next { afterFrame Config.machine.cmdStartSampling [] (afterAutotrig reg s) with
      link := { s.link with oneshot := reg, inRequest := true }
      result := if flushAnswer s ∧ flushAnswer (afterAutotrig reg s) then .ok else .flushFailed } := by
  change leave (whenUp (armUp Config.machine reg) s) = _
  rw [whenUp, if_pos hu, armUp_spec]
  simp only [hr, Bool.false_eq_true, if_false, bothResults_flushResult]
  rfl

/-- Settles O46. The registration leaves `in_request`, so its value before the operation decides. -/
theorem armOneshotDefersOrSends : Obligations.ArmOneshotDefersOrSends := by
  unfold Obligations.ArmOneshotDefersOrSends
  intro reg s hu
  refine ⟨armThreshold Config.machine reg, afterAutotrig reg s, by cases reg <;> rfl, ?_,
    fun hr => exec_armOneshot_defers hu hr reg, fun hr => exec_armOneshot_sends hu hr reg⟩
  rw [afterAutotrig, bytes16_machine]

/-! ### SET_FREEZE, SEND, RESYNC and the reserved codes -/

theorem exec_setFreeze {s : State} (hu : s.link.up = true) (v : Bool) :
    exec (.setFreeze v) s = .next { s with link := { s.link with freeze := v }, result := .ok } := by
  change leave (setFreeze v s) = _
  rw [setFreeze, whenUp, if_pos hu]; rfl

/-- Settles O47. The operation's one equation with the link up. -/
theorem setFreezeWritesTheFlagOnly : Obligations.SetFreezeWritesTheFlagOnly := by
  unfold Obligations.SetFreezeWritesTheFlagOnly
  exact fun v s hu => exec_setFreeze hu v

theorem exec_send (c : Byte) (p : List Byte) (s : State) :
    exec (.send c p) s = leave (hostSend Config.machine c p s) := rfl

/-- The controller's own command is refused, whatever its payload (R120). -/
theorem leave_hostSend_owned {c : Byte} {s : State} (hu : s.link.up = true) (hc : c = Config.machine.cmdStartSampling)
    (p : List Byte) : leave (hostSend Config.machine c p s) = .next
      { s with out := s.out ++ [.log .refused (.reason .startSamplingIsOwned)], result := .refused } := by
  rw [hostSend_spec hu, if_pos hc]; rfl

/-- Any other command is what ENC.FRAME makes of it (R120). -/
theorem leave_hostSend {c : Byte} {s : State} (hu : s.link.up = true) (hc : c ≠ Config.machine.cmdStartSampling)
    (p : List Byte) : leave (hostSend Config.machine c p s) = leave (sendFrame c p s) := by
  simp only [hostSend, whenUp, if_pos hu, if_neg hc]

/-- Settles O48. The three outcomes of a send by the host. -/
theorem sendFramesWhatTheHostGives : Obligations.SendFramesWhatTheHostGives := by
  unfold Obligations.SendFramesWhatTheHostGives
  intro c p s hu
  rw [exec_send]
  refine ⟨fun hc hp => ?sent, fun hc hp => ?tooLong, fun hc => leave_hostSend_owned hu hc p⟩
  case sent => rw [leave_hostSend hu hc, leave_sendFrame hp]
  case tooLong => rw [leave_hostSend hu hc, leave_sendFrame_tooLong hp]

theorem exec_resync {s : State} (hu : s.link.up = true) (n : Nat) :
    exec (.resync n) s = .next { afterEmission (List.replicate n 0) s with
      result := if flushAnswer s then .ok else .flushFailed } := by
  change leave (whenUp (sendSentinels n) s) = _
  rw [whenUp, if_pos hu, sendSentinels_spec, leave_emission]

/-- Settles O49. A reserved code is one log event, the link up or down. -/
theorem resyncAndReservedCodes : Obligations.ResyncAndReservedCodes := by
  unfold Obligations.ResyncAndReservedCodes
  intro n s
  exact ⟨fun hu => exec_resync hu n, rfl, rfl, rfl⟩

/-! ### The link down -/

theorem leave_whenUp_of_down {s : State} (hu : s.link.up = false) (f : State → Ret) :
    leave (whenUp f s) = .next
      { s with out := s.out ++ [.log .refused (.reason .notConnected)], result := .refused } := by
  rw [whenUp, if_neg (by simp [hu])]; rfl

theorem rx_of_down {cfg : Config} {s : State} (hu : s.link.up = false) (b : Byte) : rx cfg b s = .next s :=
  if_neg (by simp [hu])

theorem rxBatch_of_down {cfg : Config} {s : State} (hu : s.link.up = false) (bs : List Byte) :
    rxBatch cfg bs s = .next s := by
  induction bs with
  | nil => rfl
  | cons b bs ih => simp only [rxBatch, rx_of_down hu, ih]

/-- Settles O50. The four operations share the test of the link, the items the delivery of bytes. -/
theorem hostOperationsAreRefusedWhileDown : Obligations.HostOperationsAreRefusedWhileDown := by
  unfold Obligations.HostOperationsAreRefusedWhileDown
  intro i s hu
  refine ⟨fun h => ?hostOperation, fun h => ?receivedBytes⟩
  case hostOperation =>
    rcases h with ⟨reg, rfl⟩ | ⟨v, rfl⟩ | ⟨c, p, rfl⟩ | ⟨n, rfl⟩ <;> exact leave_whenUp_of_down hu _
  case receivedBytes =>
    rcases h with ⟨b, rfl⟩ | rfl | ⟨c, p, k, rfl⟩ | ⟨c, p, k, rfl⟩
    · exact rx_of_down hu b
    all_goals exact rxBatch_of_down hu _

/-! ### The host-to-device identifiers -/

/-- Settles O51. Each row is one send; StartSampling sets the flag besides. -/
theorem controllerCommandsAreEmitted : Obligations.ControllerCommandsAreEmitted := by
  unfold Obligations.ControllerCommandsAreEmitted
  intro thr s
  have hempty : ([] : List Byte).length ≤ 32766 := Nat.zero_le _
  refine ⟨leave_sendFrame hempty _ s, leave_sendFrame hempty _ s, leave_sendFrame hempty _ s, exec_startSampling s, ?autotrig⟩
  case autotrig =>
    rw [← bytes16_machine]
    exact leave_sendFrame (by rw [bytes16_machine]; simp) _ s

theorem leave_hostSend_fits {p : List Byte} {s : State} (hu : s.link.up = true) (hp : p.length ≤ 32766) (c : Byte) :
    leave (hostSend Config.machine c p s) = .next
      (if c = Config.machine.cmdStartSampling then
        { s with out := s.out ++ [.log .refused (.reason .startSamplingIsOwned)], result := .refused }
      else { afterFrame c p s with result := if flushAnswer s then .ok else .flushFailed }) := by
  split
  · next hc => exact leave_hostSend_owned hu hc p
  · next hc => rw [leave_hostSend hu hc, leave_sendFrame hp]

/-- Settles O52. Each row is SEND with its own identifier. -/
theorem opaqueCommandsGoThroughSend : Obligations.OpaqueCommandsGoThroughSend := by
  unfold Obligations.OpaqueCommandsGoThroughSend
  intro i p s hi hu hp
  simp only [List.mem_cons, List.not_mem_nil, or_false] at hi
  rcases hi with rfl | rfl | rfl | rfl | rfl | rfl | rfl | rfl | rfl | rfl | rfl | rfl <;>
    exact ⟨_, rfl, leave_hostSend_fits hu hp _⟩

end Machine
end Sys2Proof
end

section
/-! Rules of the whole machine (10_state.md section 5, 43_flow_controller.md, 70_reset_and_hazards.md R151): what the dispatch of a frame
and a host operation can do, said once, and what follows for every step. -/

namespace Sys2Proof
namespace Machine

open Sys2Proof.Safety

/-! ### What the dispatch of a frame can do -/

/-- All that DISPATCH of a command and payload can make of a state (42_command_dispatcher.md R91 to R98, 43_flow_controller.md R110 to
R113). -/
inductive DispatchEffect (cfg : Config) (s : State) : Byte → List Byte → State → Prop
  /-- Malformed, out of phase, unhandled, an error of the device, or unknown. -/
  | logged (c : Byte) (p : List Byte) (k : LogKind) (i : Info) : DispatchEffect cfg s c p (raise k i s)
  | pong (p : List Byte) (h : s.link.phase = .ping) :
      DispatchEffect cfg s cfg.cmdPong p
        { afterFrame cfg.cmdGetVersion [] s with link := { s.link with phase := .gettingVersion } }
  | version (p : List Byte) (hp : 2 ≤ p.length) (h : s.link.phase = .gettingVersion) :
      DispatchEffect cfg s cfg.cmdVersionReply p { afterFrame cfg.cmdGetParameters [] s with
        link := { s.link with version := some (byteAt p 0, byteAt p 1), phase := .gettingParameters } }
  | versionLate (p : List Byte) :
      DispatchEffect cfg s cfg.cmdVersionReply p (raise .outOfPhase (.byte cfg.cmdVersionReply)
        { s with link := { s.link with version := some (byteAt p 0, byteAt p 1) } })
  | parameters (p : List Byte) (hp : 10 ≤ p.length) (h : s.link.phase = .gettingParameters) :
      DispatchEffect cfg s cfg.cmdParametersReply p
        { afterFrame cfg.cmdStartSampling [] { s with out := s.out ++ [.onParameters (decodeParams cfg.order p)] } with
          link := { s.link with
            params := some (decodeParams cfg.order p), triggerInvert := invertFlag cfg (decodeParams cfg.order p).flags,
            phase := .sampling, inRequest := true } }
  | parametersLate (p : List Byte) :
      DispatchEffect cfg s cfg.cmdParametersReply p { s with
        link := { s.link with
          params := some (decodeParams cfg.order p), triggerInvert := invertFlag cfg (decodeParams cfg.order p).flags }
        out := s.out ++ [.onParameters (decodeParams cfg.order p)] }
  | segFires (p : List Byte) (cb data : Token) (h : s.link.phase = .sampling) :
      DispatchEffect cfg s cfg.cmdBufferSeg p { s with
        link := { s.link with inRequest := false, oneshot := none, delayRequest := false }
        out := s.out ++ [.onSampleFrame p, .onOneshotComplete cb data] }
  | segReissues (p : List Byte) (h : s.link.phase = .sampling) :
      DispatchEffect cfg s cfg.cmdBufferSeg p
        { afterFrame cfg.cmdStartSampling [] { s with out := s.out ++ [.onSampleFrame p] } with
          link := { s.link with inRequest := true, delayRequest := false } }
  | segFreezes (p : List Byte) (h : s.link.phase = .sampling) :
      DispatchEffect cfg s cfg.cmdBufferSeg p { s with
        link := { s.link with inRequest := false, delayRequest := false }
        out := s.out ++ [.onSampleFrame p] }
  | constants (p : List Byte) (f a v : Nat) :
      DispatchEffect cfg s cfg.cmdConstantsReply p { s with
        link := { s.link with constants := some (f, a, v) }
        out := s.out ++ [.onConstants f a v] }
  | pwm1 (p : List Byte) (w : PwmConfig) :
      DispatchEffect cfg s cfg.cmdPwm1Reply p { s with
        link := { s.link with pwm1 := some w }
        out := s.out ++ [.onPwm1 w] }

theorem parametersReply_effect (cfg : Config) (p : List Byte) (s : State) :
    DispatchEffect cfg s cfg.cmdParametersReply p (parametersReply cfg p s) := by
  by_cases hp : 10 ≤ p.length
  · by_cases h : s.link.phase = .gettingParameters
    · rw [parametersReply_inPhase hp h]; exact .parameters p hp h
    · rw [parametersReply_outOfPhase hp h]; exact .parametersLate p
  · rw [parametersReply_malformed (not_le.1 hp)]; exact .logged _ p _ _

theorem versionReply_effect (cfg : Config) (p : List Byte) (s : State) :
    DispatchEffect cfg s cfg.cmdVersionReply p (versionReply cfg p s) := by
  by_cases hp : 2 ≤ p.length
  · by_cases h : s.link.phase = .gettingVersion
    · rw [versionReply_inPhase hp h]; exact .version p hp h
    · rw [versionReply_outOfPhase hp h]; exact .versionLate p
  · rw [versionReply_malformed (not_le.1 hp)]; exact .logged _ p _ _

theorem pPong_effect (cfg : Config) (p : List Byte) (s : State) :
    DispatchEffect cfg s cfg.cmdPong p (pPong cfg s) := by
  by_cases h : s.link.phase = .ping
  · rw [pPong_of_ping h, sendFrame_empty]; exact .pong p h
  · rw [pPong_outOfPhase h]; exact .logged _ p _ _

theorem pBufferSeg_effect (cfg : Config) (p : List Byte) (s : State) :
    DispatchEffect cfg s cfg.cmdBufferSeg p (pBufferSeg cfg p s) := by
  by_cases h : s.link.phase = .sampling
  · rcases bufferSegBranch_spec cfg s with ⟨cb, data, ho, hd, -⟩ | ⟨ho, hf, -⟩ | ⟨ho, hf, -⟩
    · rw [pBufferSeg_fires h ho hd]; exact .segFires p cb data h
    · rw [pBufferSeg_reissues h ho hf]; exact .segReissues p h
    · rw [pBufferSeg_freezes h ho hf]; exact .segFreezes p h
  · rw [pBufferSeg_outOfPhase h]; exact .logged _ p _ _

theorem dispatch_effect (cfg : Config) (c : Byte) (p : List Byte) (s : State) :
    DispatchEffect cfg s c p (dispatch cfg c p s) := by
  unfold dispatch
  split_ifs with h h h h h h h h
  · rw [h]; exact parametersReply_effect cfg p s
  · rw [h]; exact versionReply_effect cfg p s
  · rw [h]; exact pPong_effect cfg p s
  · rw [h]; exact pBufferSeg_effect cfg p s
  · rw [h, hConstantsReply]
    split
    · exact .logged _ p _ _
    · exact .constants p _ _ _
  · rw [h, hPwm1Reply]
    split
    · exact .logged _ p _ _
    · exact .pwm1 p _
  · exact .logged c p _ _
  · exact .logged c p _ _
  · exact .logged c p _ _

/-! ### What a host operation can do -/

/-- All that an operation of the host port can make of the decoder and the controller (43_flow_controller.md sections 1, 4). -/
inductive HostEffect (s : State) (d : DecState) (l : LinkState) : Instr → Prop
  | opened (hdec : d = { DecState.reset with buf := s.dec.buf }) (hlink : l = { LinkState.reset with up := true }) :
      HostEffect s d l .connect
  | openFailed (hdec : d = s.dec) (hlink : l = { s.link with up := false }) : HostEffect s d l .connect
  | armDefers (reg : Registration) (hr : s.link.inRequest = true) (hdec : d = s.dec)
      (hlink : l = { s.link with oneshot := reg, delayRequest := true }) : HostEffect s d l (.armOneshot reg)
  | armSends (reg : Registration) (hdec : d = s.dec)
      (hlink : l = { s.link with oneshot := reg, inRequest := true }) : HostEffect s d l (.armOneshot reg)
  | freezes (v : Bool) (hdec : d = s.dec) (hlink : l = { s.link with freeze := v }) : HostEffect s d l (.setFreeze v)
  | linkKept (i : Instr) (hdec : d = s.dec) (hlink : l = s.link) : HostEffect s d l i

/-- A host operation's effect, and that it only appends to the trace. -/
def HostRet (s : State) (i : Instr) (t : State) : Prop := HostEffect s t.dec t.link i ∧ ∃ es, t.out = s.out ++ es

theorem whenUp_hostRet {f : State → Ret} {s : State} {i : Instr} (h : HostRet s i (f s).2) :
    HostRet s i (whenUp f s).2 := by
  rcases whenUp_spec f s with ⟨-, hf⟩ | ⟨-, hf⟩ <;> rw [hf]
  · exact h
  · exact ⟨.linkKept i rfl rfl, _, rfl⟩

theorem sendFrame_out (c : Byte) (p : List Byte) (s : State) : ∃ es, (sendFrame c p s).2.out = s.out ++ es := by
  by_cases h : p.length ≤ Config.maxPayload
  · exact ⟨_, by rw [sendFrame_spec h, afterFrame_out, List.append_assoc]⟩
  · exact ⟨_, by rw [sendFrame_tooLong (not_le.1 h), raise_out]⟩

theorem connect_hostRet (s : State) : HostRet s .connect (connect Config.machine s).2 := by
  rw [connect_spec]
  split
  · exact ⟨.opened rfl rfl, _, by rw [afterFrame_out, List.append_assoc]⟩
  · exact ⟨.openFailed rfl rfl, _, rfl⟩

theorem armOneshot_hostRet (reg : Registration) (s : State) :
    HostRet s (.armOneshot reg) (armOneshot Config.machine reg s).2 := by
  refine whenUp_hostRet ?_
  simp only [armUp_spec]
  split
  · next hr => exact ⟨.armDefers reg hr rfl rfl, _, by simp only [afterFrame_out, List.append_assoc]; rfl⟩
  · exact ⟨.armSends reg rfl rfl, _, by simp only [afterFrame_out, List.append_assoc]; rfl⟩

theorem setFreeze_hostRet (v : Bool) (s : State) : HostRet s (.setFreeze v) (setFreeze v s).2 :=
  whenUp_hostRet ⟨.freezes v rfl rfl, [], (List.append_nil _).symm⟩

theorem hostSend_hostRet (c : Byte) (p : List Byte) (s : State) :
    HostRet s (.send c p) (hostSend Config.machine c p s).2 := by
  refine whenUp_hostRet ?_
  split
  · exact ⟨.linkKept _ rfl rfl, _, rfl⟩
  · exact ⟨.linkKept _ (sendFrame_dec c p s) (sendFrame_link c p s), sendFrame_out c p s⟩

theorem resync_hostRet (n : Nat) (s : State) : HostRet s (.resync n) (resync n s).2 := by
  refine whenUp_hostRet ?_
  rw [sendSentinels_spec]
  exact ⟨.linkKept _ rfl rfl, _, by rw [afterEmission_out, List.append_assoc]⟩

/-- Every code of the host port goes on. -/
theorem exec_decodeHost (code : BitVec 3) (o : HostOperands) (s : State) :
    ∃ t, exec (decodeHost code o) s = .next t ∧ HostRet s (decodeHost code o) t := by
  unfold decodeHost
  split
  · exact ⟨_, rfl, connect_hostRet s⟩
  · exact ⟨_, rfl, armOneshot_hostRet o.reg s⟩
  · exact ⟨_, rfl, setFreeze_hostRet o.v s⟩
  · exact ⟨_, rfl, hostSend_hostRet o.c o.p s⟩
  · exact ⟨_, rfl, resync_hostRet o.n s⟩
  all_goals exact ⟨_, rfl, .linkKept _ rfl rfl, _, rfl⟩

/-! ### What a step can be -/

/-- A step is nothing, the delivery of received bytes, or a host operation (00_scope.md R2, R3). -/
theorem step_cases (s : State) :
    step s = .next s ∨ (∃ bs rest, step s = rxBatch Config.machine bs (takeInput rest s)) ∨
      ∃ code o rest, s.env.input = .host code o :: rest ∧ step s = exec (decodeHost code o) (takeInput rest s) := by
  match h : s.env.input with
  | [] => exact .inl (step_of_nil h)
  | .byte b :: rest =>
    refine .inr (.inl ⟨[b], rest, ?_⟩)
    rw [step_byte h, rxBatch]
    cases rx Config.machine b (takeInput rest s) <;> rfl
  | .batch bs :: rest => exact .inr (.inl ⟨bs, rest, step_batch h⟩)
  | .host code o :: rest => exact .inr (.inr ⟨code, o, rest, rfl, step_host h⟩)

/-- What every received byte keeps, every run of them keeps. -/
theorem rxBatch_keeps {cfg : Config} {P : State → Prop} (hrx : ∀ b s t, P s → rx cfg b s = .next t → P t)
    {bs : List Byte} {s t : State} (hs : P s) (h : rxBatch cfg bs s = .next t) : P t := by
  induction bs generalizing s with
  | nil => cases h; exact hs
  | cons b bs ih =>
    rw [rxBatch] at h
    split at h
    · next u hu => exact ih (hrx b s u hs hu) h
    · cases h
    · cases h

/-- What is of the controller alone and the dispatch of every frame keeps, every received byte keeps. -/
theorem rx_keeps_link {cfg : Config} {P : LinkState → Prop}
    (hd : ∀ c p s t, DispatchEffect cfg s c p t → P s.link → P t.link) {b : Byte} {s t : State} (hs : P s.link)
    (h : rx cfg b s = .next t) : P t.link := by
  rcases rx_next h with ⟨-, rfl⟩ | ⟨-, r, u, hstep, rfl⟩
  · exact hs
  · have hu : P u.link := by rw [(decStep_next hstep).1]; exact hs
    cases r with
    | frame c p => exact hd c p u (dispatch cfg c p u) (dispatch_effect cfg c p u) hu
    | _ => exact hu

theorem rxBatch_keeps_link {cfg : Config} {P : LinkState → Prop}
    (hd : ∀ c p s t, DispatchEffect cfg s c p t → P s.link → P t.link) {bs : List Byte} {s t : State} (hs : P s.link)
    (h : rxBatch cfg bs s = .next t) : P t.link :=
  rxBatch_keeps (P := fun s => P s.link) (fun _ _ _ => rx_keeps_link hd) hs h

/-! ### The invariant -/

theorem DispatchEffect.keeps_linkInv {c : Byte} {p : List Byte} {s t : State}
    (h : DispatchEffect Config.machine s c p t) (hs : linkInv s.link) : linkInv t.link := by
  obtain ⟨hdelay, htrigger⟩ := hs
  cases h with
  | logged | pong | version | versionLate | constants | pwm1 => exact ⟨hdelay, htrigger⟩
  | parameters => exact ⟨fun _ => rfl, rfl⟩
  | parametersLate => exact ⟨hdelay, rfl⟩
  | segFires | segReissues | segFreezes => exact ⟨fun h => absurd h Bool.false_ne_true, htrigger⟩

theorem HostRet.keeps_engineInv {i : Instr} {s t : State} (h : HostRet s i t) (hs : engineInv s) : engineInv t := by
  obtain ⟨hdec, hdelay, htrigger⟩ := hs
  obtain ⟨heffect, -⟩ := h
  unfold engineInv
  cases heffect with
  | opened hd hl =>
    rw [hd, hl]
    exact ⟨decInv_reset hdec.1, fun h => h, rfl⟩
  | openFailed hd hl | freezes v hd hl | linkKept _ hd hl => rw [hd, hl]; exact ⟨hdec, hdelay, htrigger⟩
  | armDefers reg hr hd hl => rw [hd, hl]; exact ⟨hdec, fun _ => hr, htrigger⟩
  | armSends reg hd hl => rw [hd, hl]; exact ⟨hdec, fun _ => rfl, htrigger⟩

/-- Settles O3. Received bytes keep the decoder's half by the byte step and the controller's by the dispatch; a host operation
keeps both. -/
theorem stepKeepsTheInvariant : Obligations.StepKeepsTheInvariant := by
  unfold Obligations.StepKeepsTheInvariant
  intro s hs
  obtain ⟨hdec, hlink⟩ := hs
  rcases step_cases s with hstep | ⟨bs, rest, hstep⟩ | ⟨code, o, rest, -, hstep⟩
  · exact ⟨s, hstep, hdec, hlink⟩
  · obtain ⟨t, hbatch, hdec', -, -⟩ := rxBatch_spec (cfg := Config.machine) (s := takeInput rest s) bs hdec
    have hlink' : linkInv t.link :=
      rxBatch_keeps_link (fun _ _ _ _ h => h.keeps_linkInv) (s := takeInput rest s) hlink hbatch
    exact ⟨t, hstep.trans hbatch, hdec', hlink'⟩
  · obtain ⟨t, hexec, hret⟩ := exec_decodeHost code o (takeInput rest s)
    exact ⟨t, hstep.trans hexec, hret.keeps_engineInv ⟨hdec, hlink⟩⟩

/-! ### The handshake -/

/-- `handshakeIdle`, of the controller alone. -/
def idleBeforeSampling (l : LinkState) : Prop := l.phase ≠ .sampling → l.inRequest = false

theorem DispatchEffect.keeps_idle {cfg : Config} {c : Byte} {p : List Byte} {s t : State} (h : DispatchEffect cfg s c p t)
    (hs : idleBeforeSampling s.link) : idleBeforeSampling t.link := by
  cases h with
  | logged | versionLate | parametersLate | constants | pwm1 => exact hs
  | pong p hphase | version p hp hphase => exact fun _ => hs (by rw [hphase]; decide)
  | parameters => exact fun h => absurd rfl h
  | segFires p cb data hphase | segReissues p hphase | segFreezes p hphase => exact fun h => absurd hphase h

/-- Settles O4. The frame that asks for samples in the handshake is the one that enters `Sampling`; an arm is the one host operation
that asks, and is made there. -/
theorem handshakeStaysIdle : Obligations.HandshakeStaysIdle := by
  unfold Obligations.HandshakeStaysIdle
  intro s t hs harms ht
  rcases step_cases s with hstep | ⟨bs, rest, hstep⟩ | ⟨code, o, rest, hin, hstep⟩ <;> rw [hstep] at ht
  · cases ht; exact hs
  · exact rxBatch_keeps_link (P := idleBeforeSampling) (fun _ _ _ _ h => h.keeps_idle) (s := takeInput rest s) hs ht
  · obtain ⟨t', hexec, heffect, -⟩ := exec_decodeHost code o (takeInput rest s)
    cases hexec.symm.trans ht
    have harm : ∀ reg, decodeHost code o = .armOneshot reg → s.link.phase = .sampling :=
      fun reg hreg => harms reg _ rest hin (by rw [decodePort, hreg])
    unfold handshakeIdle
    generalize decodeHost code o = i at heffect harm
    cases heffect with
    | opened hd hl => rw [hl]; exact fun _ => rfl
    | openFailed hd hl | freezes v hd hl | linkKept _ hd hl => rw [hl]; exact hs
    | armDefers reg hr hd hl | armSends reg hd hl => rw [hl]; exact fun h => absurd (harm reg rfl) h

/-! ### The trace -/

theorem rx_out {cfg : Config} {b : Byte} {s t : State} (h : rx cfg b s = .next t) : ∃ es, t.out = s.out ++ es := by
  rcases rx_next h with ⟨-, rfl⟩ | ⟨-, r, u, hstep, rfl⟩
  · exact ⟨[], (List.append_nil _).symm⟩
  · obtain ⟨-, -, -, -, -, es, hes⟩ := dispatched_handlerFrame cfg r u
    rcases (decStep_next hstep).2 with ⟨hout, -⟩ | ⟨⟨k, i, hout⟩, -⟩
    · exact ⟨es, by rw [← hout]; exact hes⟩
    · exact ⟨.log k i :: es, by rw [hout, List.append_assoc] at hes; exact hes⟩

/-- Settles O55. Received bytes append one run of events after another. -/
theorem traceOnlyGrows : Obligations.TraceOnlyGrows := by
  unfold Obligations.TraceOnlyGrows
  intro s t ht
  rcases step_cases s with hstep | ⟨bs, rest, hstep⟩ | ⟨code, o, rest, -, hstep⟩ <;> rw [hstep] at ht
  · cases ht; exact ⟨[], (List.append_nil _).symm⟩
  · refine rxBatch_keeps (P := fun t => ∃ es, t.out = s.out ++ es) (s := takeInput rest s) ?_
      ⟨[], (List.append_nil _).symm⟩ ht
    rintro b u v ⟨es, hu⟩ hrx
    obtain ⟨fs, hv⟩ := rx_out hrx
    exact ⟨es ++ fs, by rw [hv, hu, List.append_assoc]⟩
  · obtain ⟨t', hexec, -, hout⟩ := exec_decodeHost code o (takeInput rest s)
    cases hexec.symm.trans ht
    exact hout

end Machine
end Sys2Proof
end

section
/-! Who writes the controller's registers, and the request in flight (43_flow_controller.md R107, R114 to R123; 10_state.md R16, R19,
R28). -/

namespace Sys2Proof
namespace Machine

open Sys2Proof.Safety

/-! ### A byte without a frame -/

/-- Settles O60. A byte step writes the decoder and at most one log event, and without a frame nothing is dispatched. -/
theorem byteWithoutFrameLeavesTheController : Obligations.ByteWithoutFrameLeavesTheController := by
  unfold Obligations.ByteWithoutFrameLeavesTheController
  intro b s t hrx hno
  rcases rx_next hrx with ⟨-, rfl⟩ | ⟨-, r, u, hstep, rfl⟩
  · exact ⟨rfl, rfl, .inl rfl⟩
  · obtain ⟨hframe, hout⟩ := decStep_next hstep
    rw [dispatched_of_no_frame hno]
    refine ⟨by rw [hframe], by rw [hframe], ?_⟩
    rcases hout with ⟨hout, -⟩ | ⟨hlog, -⟩
    · exact .inl hout
    · exact .inr hlog

/-! ### The phase -/

/-- A completed frame leaves what its dispatch makes of a state that differs in the decoder alone. -/
theorem rx_frame_cases {cfg : Config} {b : Byte} {s t : State} (h : rx cfg b s = .next t) :
    (∀ c p, t.result ≠ .frame c p) ∨ t = s ∨
      ∃ c p u v, t = { v with result := .frame c p } ∧ u = { s with dec := u.dec } ∧ DispatchEffect cfg u c p v := by
  rcases rx_next h with ⟨-, rfl⟩ | ⟨-, r, u, hstep, rfl⟩
  · exact .inr (.inl rfl)
  · cases r with
    | frame c p =>
      obtain ⟨hframe, hout⟩ := decStep_next hstep
      rcases hout with ⟨hout, -⟩ | ⟨-, k, hk⟩
      · rw [hout] at hframe
        exact .inr (.inr ⟨c, p, u, _, rfl, hframe, dispatch_effect cfg c p u⟩)
      · cases hk
    | _ => exact .inl fun c p e => by cases e

theorem decodeHost_eq_connect {code : BitVec 3} {o : HostOperands} (h : decodeHost code o = .connect) : code = 0 := by
  unfold decodeHost at h
  split at h
  · next h0 => exact BitVec.eq_of_toNat_eq h0
  all_goals cases h

/-- Settles O56. Three of the dispatch's effects move the phase, each for the frame of its own phase; of the host's operations only
CONNECT does. -/
theorem phaseMovesOnlyByTheTable : Obligations.PhaseMovesOnlyByTheTable := by
  unfold Obligations.PhaseMovesOnlyByTheTable
  intro s t
  refine ⟨fun b hrx => ?received, fun code o hcode hexec => ?host⟩
  case received =>
    rcases rx_frame_cases hrx with hno | rfl | ⟨c, p, u, v, rfl, hu, heffect⟩
    · obtain ⟨hlink, -⟩ := byteWithoutFrameLeavesTheController b s t hrx hno
      exact .inl (by rw [hlink])
    · exact .inl rfl
    · have hphase : u.link.phase = s.link.phase := by rw [hu]
      rw [← hphase]
      cases heffect with
      | pong p h => exact .inr (.inl ⟨p, rfl, h, rfl⟩)
      | version p hp h => exact .inr (.inr (.inl ⟨p, rfl, hp, h, rfl⟩))
      | parameters p hp h => exact .inr (.inr (.inr ⟨p, rfl, hp, h, rfl⟩))
      | _ => exact .inl rfl
  case host =>
    obtain ⟨t', hexec', heffect, -⟩ := exec_decodeHost code o s
    cases hexec'.symm.trans hexec
    have hne : decodeHost code o ≠ .connect := fun e => hcode (decodeHost_eq_connect e)
    generalize decodeHost code o = i at heffect hne
    cases heffect with
    | opened | openFailed => exact absurd rfl hne
    | armDefers _ _ _ hl | armSends _ _ hl | freezes _ _ hl | linkKept _ _ hl => rw [hl]

/-! ### The link bit and the freeze flag -/

/-- The two registers of the controller that the peer cannot move (10_state.md R16, R19). -/
def KeepsBits (s t : State) : Prop := t.link.up = s.link.up ∧ t.link.freeze = s.link.freeze

theorem KeepsBits.trans {s t u : State} (h : KeepsBits s t) (k : KeepsBits t u) : KeepsBits s u :=
  ⟨k.1.trans h.1, k.2.trans h.2⟩

theorem HandlerFrame.keepsBits {s t : State} (h : HandlerFrame s t) : KeepsBits s t := by
  obtain ⟨-, hup, hfreeze, -⟩ := h
  exact ⟨hup, hfreeze⟩

theorem keepsBits_of_link {s t : State} (h : t.link = s.link) : KeepsBits s t := by
  unfold KeepsBits
  rw [h]
  exact ⟨rfl, rfl⟩

theorem leave_keepsBits {s t : State} {r : Ret} (hr : KeepsBits s r.2) (h : leave r = .next t) : KeepsBits s t := by
  cases h; exact hr

theorem finish_decArm_keepsBits {c : ByteClass} {s t : State} (h : finish (decArm c s) = .next t) : KeepsBits s t := by
  obtain ⟨r, u, harm, rfl⟩ := finish_eq_next h
  obtain ⟨hframe, -⟩ := decArm_next harm
  exact keepsBits_of_link (show u.link = s.link by rw [hframe])

theorem rx_keepsBits {cfg : Config} {b : Byte} {s t : State} (h : rx cfg b s = .next t) : KeepsBits s t := by
  rcases rx_next h with ⟨-, rfl⟩ | ⟨-, r, u, hstep, rfl⟩
  · exact ⟨rfl, rfl⟩
  · have hstep' : KeepsBits s u := keepsBits_of_link (by rw [(decStep_next hstep).1])
    exact hstep'.trans (dispatched_handlerFrame cfg r u).keepsBits

theorem rxBatch_keepsBits {cfg : Config} {bs : List Byte} {s t : State} (h : rxBatch cfg bs s = .next t) : KeepsBits s t :=
  rxBatch_keeps (P := KeepsBits s) (fun _ _ _ hu hrx => hu.trans (rx_keepsBits hrx)) ⟨rfl, rfl⟩ h

theorem hConstantsReply_keepsBits (cfg : Config) (p : List Byte) (s : State) : KeepsBits s (hConstantsReply cfg p s) := by
  unfold hConstantsReply
  split <;> exact ⟨rfl, rfl⟩

theorem hPwm1Reply_keepsBits (cfg : Config) (p : List Byte) (s : State) : KeepsBits s (hPwm1Reply cfg p s) := by
  unfold hPwm1Reply
  split <;> exact ⟨rfl, rfl⟩

theorem HostRet.keeps_up {i : Instr} {s t : State} (h : HostRet s i t) (hconnect : i ≠ .connect) :
    t.link.up = s.link.up := by
  obtain ⟨heffect, -⟩ := h
  cases heffect with
  | opened | openFailed => exact absurd rfl hconnect
  | armDefers _ _ _ hl | armSends _ _ hl | freezes _ _ hl | linkKept _ _ hl => rw [hl]

theorem HostRet.keepsBits {i : Instr} {s t : State} (h : HostRet s i t) (hconnect : i ≠ .connect)
    (hfreeze : ∀ v, i ≠ .setFreeze v) : KeepsBits s t := by
  refine ⟨h.keeps_up hconnect, ?_⟩
  obtain ⟨heffect, -⟩ := h
  cases heffect with
  | opened | openFailed => exact absurd rfl hconnect
  | freezes v => exact absurd rfl (hfreeze v)
  | armDefers _ _ _ hl | armSends _ _ hl | linkKept _ _ hl => rw [hl]

theorem hostSend_keepsBits (c : Byte) (p : List Byte) (s : State) : KeepsBits s (hostSend Config.machine c p s).2 :=
  (hostSend_hostRet c p s).keepsBits Instr.noConfusion fun _ => Instr.noConfusion

/-- Beside CONNECT, LinkInit and SET_FREEZE no operation writes the two: the decoder's arms and the sends leave the controller, and the
handlers keep both. -/
theorem exec_keepsBits {i : Instr} {s t : State} (h : exec i s = .next t) (hconnect : i ≠ .connect)
    (hinit : i ≠ .linkInit) (hfreeze : ∀ v, i ≠ .setFreeze v) : KeepsBits s t := by
  cases i with
  | connect => exact absurd rfl hconnect
  | linkInit => exact absurd rfl hinit
  | setFreeze v => exact absurd rfl (hfreeze v)
  | itemSentinel | itemFrameShort | itemFrameLong => exact rxBatch_keepsBits h
  | rx b => exact rx_keepsBits h
  | decSentinel => exact finish_decArm_keepsBits (c := .sentinel) h
  | decSizeShort l => exact finish_decArm_keepsBits (c := .sizeShort l) h
  | decSizeLong l => exact finish_decArm_keepsBits (c := .sizeLong l) h
  | decSizeLow l => exact finish_decArm_keepsBits (c := .sizeLow l) h
  | decCommand c => exact finish_decArm_keepsBits (c := .command c) h
  | decPayload d => exact finish_decArm_keepsBits (c := .payload d) h
  | decChecksum k => exact finish_decArm_keepsBits (c := .checksum k) h
  | decReset | hostReserved5 | hostReserved6 | hostReserved7 => exact leave_keepsBits ⟨rfl, rfl⟩ h
  | encFrame | cmdPing | cmdGetVersion | cmdGetParameters | cmdSetAutotrig =>
    exact leave_keepsBits (keepsBits_of_link (sendFrame_link _ _ s)) h
  | encSentinel n => exact leave_keepsBits (by rw [sendSentinels_spec]; exact ⟨rfl, rfl⟩) h
  | flush => exact leave_keepsBits (by rw [flushOp_spec]; exact ⟨rfl, rfl⟩) h
  | dispatch c p | cmdUnknown c p => exact leave_keepsBits (dispatch_handlerFrame _ c p s).keepsBits h
  | hParametersReply p => exact leave_keepsBits (hParametersReply_handlerFrame _ p s).keepsBits h
  | hVersionReply p => exact leave_keepsBits (hVersionReply_handlerFrame _ p s).keepsBits h
  | hConstantsReply p | cmdConstantsReply p => exact leave_keepsBits (hConstantsReply_keepsBits _ p s) h
  | hPwm1Reply p | cmdPwm1Reply p => exact leave_keepsBits (hPwm1Reply_keepsBits _ p s) h
  | hScratchpadReply p | hError p | cmdScratchpadReply p | cmdError p =>
    exact leave_keepsBits (emit_handlerFrame _ s).keepsBits h
  | hUnknown c => exact leave_keepsBits (raise_handlerFrame _ _ s).keepsBits h
  | pPong | cmdPong => exact leave_keepsBits (pPong_handlerFrame _ s).keepsBits h
  | pVersion => exact leave_keepsBits (pVersion_handlerFrame _ s).keepsBits h
  | pParameters => exact leave_keepsBits (pParameters_handlerFrame _ s).keepsBits h
  | pBufferSeg p | cmdBufferSeg p => exact leave_keepsBits (pBufferSeg_handlerFrame _ p s).keepsBits h
  | startSampling | cmdStartSampling => exact leave_keepsBits (startSampling_handlerFrame _ s).keepsBits h
  | armOneshot reg => exact leave_keepsBits ((armOneshot_hostRet reg s).keepsBits hconnect hfreeze) h
  | send c p => exact leave_keepsBits (hostSend_keepsBits c p s) h
  | resync n => exact leave_keepsBits ((resync_hostRet n s).keepsBits hconnect hfreeze) h
  | cmdGetConstants | cmdSetTrigger | cmdSetHoldoff | cmdSetVref | cmdSetPrescaler | cmdSetSamples | cmdSetFlags |
      cmdSetChannels | cmdWriteScratchpad | cmdReadScratchpad | cmdSetPwm1 | cmdGetPwm1 =>
    exact leave_keepsBits (hostSend_keepsBits _ _ s) h
  | cmdVersionReply p => exact leave_keepsBits (versionReply_handlerFrame _ p s).keepsBits h
  | cmdParametersReply p => exact leave_keepsBits (parametersReply_handlerFrame _ p s).keepsBits h

/-- Settles O57. LinkInit leaves the link bit out, and SET_FREEZE writes the flag alone. -/
theorem upAndFreezeHaveOneWriter : Obligations.UpAndFreezeHaveOneWriter := by
  unfold Obligations.UpAndFreezeHaveOneWriter
  intro i s t h hconnect
  by_cases hinit : i = .linkInit
  · subst hinit
    cases h
    exact ⟨rfl, fun hne => absurd rfl hne⟩
  by_cases hfreeze : ∃ v, i = .setFreeze v
  · obtain ⟨v, rfl⟩ := hfreeze
    cases h
    exact ⟨(setFreeze_hostRet v s).keeps_up hconnect, fun _ hne => absurd rfl (hne v)⟩
  · obtain ⟨hup, hfr⟩ := exec_keepsBits h hconnect hinit (fun v e => hfreeze ⟨v, e⟩)
    exact ⟨hup, fun _ _ => hfr⟩

/-! ### The request in flight -/

/-- What a frame received in `Sampling` with a request outstanding makes of the trace and the request (R113, R114): nothing, or one
sample frame with at most one request sent again. -/
theorem DispatchEffect.of_outstanding {c : Byte} {p : List Byte} {s t : State} (h : DispatchEffect Config.machine s c p t)
    (hphase : s.link.phase = .sampling) (hr : s.link.inRequest = true) :
    (sampleFrames t.out = sampleFrames s.out ∧ txBytes t.out = txBytes s.out ∧ t.link.inRequest = true) ∨
      (∃ p, sampleFrames t.out = sampleFrames s.out ++ [p] ∧
        ((txBytes t.out = txBytes s.out ∧ t.link.inRequest = false) ∨
          (txBytes t.out = txBytes s.out ++ frameBytes Config.machine.cmdStartSampling [] ∧ t.link.inRequest = true))) := by
  cases h with
  | logged | versionLate | parametersLate | constants | pwm1 =>
    exact .inl ⟨by simp [sampleFrames], by simp [txBytes], hr⟩
  | pong _ h | version _ _ h | parameters _ _ h => rw [hphase] at h; cases h
  | segFires p | segFreezes p => exact .inr ⟨p, by simp [sampleFrames], .inl ⟨by simp [txBytes], rfl⟩⟩
  | segReissues p => exact .inr ⟨p, by simp [sampleFrames], .inr ⟨by simp [txBytes], rfl⟩⟩

theorem leave_whenUp_outstanding {f : State → Ret} {s t : State} (hr : s.link.inRequest = true)
    (hdown : s.link.up = false) (h : leave (whenUp f s) = .next t) :
    txBytes t.out = txBytes s.out ∧ t.link.inRequest = true := by
  rw [leave_whenUp_of_down hdown] at h
  cases h
  exact ⟨by simp [txBytes], hr⟩

/-- Settles O58. A received byte by whether it completes a frame; a host operation by whether the link is up, where its equation says
what it sends. -/
theorem outstandingRequestBlocksTheNext : Obligations.OutstandingRequestBlocksTheNext := by
  unfold Obligations.OutstandingRequestBlocksTheNext
  intro s t hphase hr
  refine ⟨fun b h => ?received, fun reg hu h => ?arm, fun v h => ?freeze, fun c p h => ?send, fun n h => ?resync,
    fun i hi h => ?reserved⟩
  case received =>
    rcases rx_frame_cases h with hno | rfl | ⟨c, p, u, v, rfl, hu, heffect⟩
    · obtain ⟨hlink, -, hout⟩ := byteWithoutFrameLeavesTheController b s t h hno
      rw [hlink]
      rcases hout with hout | ⟨k, i, hout⟩ <;> rw [hout]
      · exact .inl ⟨rfl, rfl, hr⟩
      · exact .inl ⟨by simp [sampleFrames], by simp [txBytes], hr⟩
    · exact .inl ⟨rfl, rfl, hr⟩
    · rw [hu] at heffect
      exact heffect.of_outstanding hphase hr
  case arm =>
    rw [exec_armOneshot_defers hu hr] at h
    cases h
    refine ⟨?_, hr, rfl⟩
    cases reg <;> simp [afterAutotrig, armThreshold]
  case freeze =>
    cases hu : s.link.up
    · exact leave_whenUp_outstanding hr hu h
    · rw [exec_setFreeze hu] at h
      cases h
      exact ⟨rfl, hr⟩
  case send =>
    cases hu : s.link.up
    · obtain ⟨hout, hr'⟩ := leave_whenUp_outstanding hr hu h
      exact ⟨.inl hout, hr'⟩
    · by_cases hc : c = Config.machine.cmdStartSampling
      · rw [exec_send, leave_hostSend_owned hu hc] at h
        cases h
        exact ⟨.inl (by simp [txBytes]), hr⟩
      rw [exec_send, leave_hostSend hu hc] at h
      by_cases hp : p.length ≤ 32766
      · rw [leave_sendFrame hp] at h
        cases h
        exact ⟨.inr ⟨hc, by simp⟩, hr⟩
      · rw [leave_sendFrame_tooLong (not_le.1 hp)] at h
        cases h
        exact ⟨.inl (by simp [txBytes]), hr⟩
  case resync =>
    cases hu : s.link.up
    · obtain ⟨hout, hr'⟩ := leave_whenUp_outstanding hr hu h
      exact ⟨.inl hout, hr'⟩
    · rw [exec_resync hu] at h
      cases h
      exact ⟨.inr (by simp only [afterEmission_out, txBytes_append, txBytes_map_txByte, txBytes_flushEvents,
        List.append_nil]), hr⟩
  case reserved =>
    simp only [List.mem_cons, List.not_mem_nil, or_false] at hi
    rcases hi with rfl | rfl | rfl <;> cases h <;> exact ⟨by simp [reservedOp, refuse, txBytes], hr⟩

/-- Settles O59. The arm leaves the deferral, which the frame in flight finds and clears; unfrozen, the next frame finds the one-shot
without a deferral. -/
theorem deferredOneshotFiresOnTheNextFrame : Obligations.DeferredOneshotFiresOnTheNextFrame := by
  unfold Obligations.DeferredOneshotFiresOnTheNextFrame
  intro cb data p q s hu hphase hr
  obtain ⟨t, harm, hlink⟩ : ∃ t, exec (.armOneshot (some (cb, data))) s = .next t ∧
      t.link = { s.link with oneshot := some (cb, data), delayRequest := true } :=
    ⟨_, exec_armOneshot_defers hu hr _, rfl⟩
  have hphase' : t.link.phase = .sampling := by rw [hlink]; exact hphase
  have hdelay : t.link.delayRequest = true := by rw [hlink]
  have honeshot : t.link.oneshot = some (cb, data) := by rw [hlink]
  have hfreeze : t.link.freeze = s.link.freeze := by rw [hlink]
  refine ⟨t, _, harm, exec_pBufferSeg p t, ?_⟩
  cases hf : s.link.freeze <;> rw [hf] at hfreeze
  case true =>
    rw [pBufferSeg_freezes hphase' (.inr hdelay) hfreeze]
    exact ⟨honeshot, rfl, fun _ => ⟨rfl, rfl⟩, fun h => absurd h.symm Bool.false_ne_true⟩
  case false =>
    rw [pBufferSeg_reissues hphase' (.inr hdelay) hfreeze]
    refine ⟨honeshot, rfl, fun h => absurd h Bool.false_ne_true, fun _ => ⟨by simp [txBytes], rfl, ?_⟩⟩
    refine ⟨_, exec_pBufferSeg q _, ?_⟩
    rw [pBufferSeg_fires (cb := cb) (data := data)]
    · exact ⟨rfl, rfl, rfl⟩
    · exact hphase'
    · exact honeshot
    · rfl

end Machine
end Sys2Proof
end
